-- ==== Sys2Proof/Word.lean ====
section
/-! DEFINITION. The machine's word types (00_scope.md R8): a byte is 8 bits, a payload word 16 bits, a register 32 bits; a window offset is 13 bits (20_memory.md R60). -/

namespace Sys2Proof

/-- One byte of a frame, of `CRC`, or of a byte buffer (R8). -/
abbrev Byte := BitVec 8

/-- One 16-bit payload word, parameter word or CommandWord (R8). -/
abbrev Half := BitVec 16

/-- One 32-bit register value, also the word written to `CMD` (R8, R90). -/
abbrev Word := BitVec 32

/-- A byte offset in the host window, `0x0000 .. 0x1FFF` (R60). -/
abbrev Offset := BitVec 13

end Sys2Proof
end

