-- ==== Sys2Proof/Config.lean ====
section
/-! DEFINITION. What one build of the block fixes (00_scope.md R7) and the free values of the spec (70_reset_and_hazards.md R231). -/

namespace Sys2Proof

/-- The named parameters of R7. `CMD_LATENCY`, the third, is unobservable in an untimed model (R243, I6) and is not held (log 14). -/
structure Config where
  /-- `MAX_WORDS`: the largest DataWord count of a response frame. -/
  maxWords : Nat
  /-- `MAX_PARAMS`: the largest parameter-word count of an encoded command. -/
  maxParams : Nat
  deriving DecidableEq, Repr

namespace Config

/-- The spec's defaults, 16 and 16 (R7). -/
def default : Config := { maxWords := 16, maxParams := 16 }

/-- The legal ranges of R7: `MAX_WORDS` in 1..85, `MAX_PARAMS` in 0..84. -/
def legal (c : Config) : Bool :=
  decide (1 ≤ c.maxWords) && decide (c.maxWords ≤ 85) && decide (c.maxParams ≤ 84)

/-- `RXCAP = 3 * MAX_WORDS`, the bytes RXBUF holds (R7). -/
def rxCap (c : Config) : Nat := 3 * c.maxWords

/-- `TXCAP = 2 + 3 * MAX_PARAMS`, the bytes TXBUF holds (R7). -/
def txCap (c : Config) : Nat := 2 + 3 * c.maxParams

/-- FREE VALUE (R231, I2; log 5): the byte that the byte-buffer slot at a window offset holds after a reset. First argument: the number of the reset (the contents may differ between resets); second: the offset of the slot. It has no body. -/
opaque drawByte : Nat → Nat → Byte

/-- FREE VALUE (R231, I2; log 5): the same for a 16-bit slot. -/
opaque drawHalf : Nat → Nat → Half

end Config

end Sys2Proof
end

