-- ==== Sys2Proof/Syntax.lean ====
section
/-! DEFINITION. The commands of the block: one constructor per row of spec/opcode_table.json (30_encoding.md R92), operands as the fields A and B hold them. -/

namespace Sys2Proof

/-- The sixteen fields of FIELD_DECODE, in the order of their ids 0 to 15 (R93). -/
inductive FieldId where
  | flow
  | flowTemp
  | co2
  | co2Temp
  | co2Rh
  | pm1
  | pm25
  | pm4
  | pm10
  | voc
  | nox
  | pmTemp
  | pmRh
  | calOffset
  | calSlope
  | calTc
  deriving DecidableEq, Repr

/-- The seven commands (R92). An ILLEGAL word is no command: the decoder rejects it and the port runs `raise IllegalCommand()` (R95). -/
inductive Instr where
  /-- `CRC_INIT` (R112). -/
  | crcInit
  /-- `CRC_BYTE b` (R113). -/
  | crcByte (b : Byte)
  /-- `CRC_WORD p` (R114). -/
  | crcWord (p : Half)
  /-- `FRAME_ENCODE m, op16` (R131). -/
  | frameEncode (m : Byte) (op16 : Half)
  /-- `CHECK_WORD p, c` (R140); `c` is field A, `p` is field B. -/
  | checkWord (c : Byte) (p : Half)
  /-- `FRAME_DECODE n` (R145). -/
  | frameDecode (n : Byte)
  /-- `FIELD_DECODE f, raw` (R163). -/
  | fieldDecode (f : FieldId) (raw : Half)
  deriving DecidableEq, Repr

/-- The command's mnemonic in spec/opcode_table.json. -/
def Instr.mnemonic : Instr → String
  | .crcInit => "CRC_INIT"
  | .crcByte _ => "CRC_BYTE"
  | .crcWord _ => "CRC_WORD"
  | .frameEncode _ _ => "FRAME_ENCODE"
  | .checkWord _ _ => "CHECK_WORD"
  | .frameDecode _ => "FRAME_DECODE"
  | .fieldDecode _ _ => "FIELD_DECODE"

end Sys2Proof
end

