-- ==== Sys2Proof/WellFormed.lean ====
section
/-! DEFINITION. Which terms of `Instr` the encoding admits: the one value constraint of R92, `m <= MAX_PARAMS`. Every other operand has exactly the width of its field. -/

namespace Sys2Proof

/-- The command is one that some legal word encodes (R92's column "value constraint"). -/
def Instr.wf (c : Config) : Instr → Bool
  | .crcInit => true
  | .crcByte _ => true
  | .crcWord _ => true
  | .frameEncode m _ => decide (m.toNat ≤ c.maxParams)
  | .checkWord _ _ => true
  | .frameDecode _ => true
  | .fieldDecode _ _ => true

end Sys2Proof
end

