-- ==== Sys2Proof/Decode.lean ====
section
/-! DEFINITION. Decoding (30_encoding.md R94), total on every 32-bit word, and the encoder written from the same table (R92, R93). -/

namespace Sys2Proof

/-- Why a word is ILLEGAL (R202). The block records none of these (R200); the names are for the reader. -/
inductive IllegalReason where
  /-- `OP` is 0x00 or 0x08..0xFF. -/
  | unlistedOpcode
  /-- A field that must be zero is not. -/
  | nonzeroField
  /-- `OP = 0x04` with `A > MAX_PARAMS`. -/
  | tooManyParams
  deriving DecidableEq, Repr

/-- What a word decodes to: a command, or ILLEGAL with the reason. -/
inductive Decoded where
  | legal (i : Instr)
  | illegal (why : IllegalReason)
  deriving DecidableEq, Repr

/-- `OP = w[31:24]` (R90). -/
def opField (w : Word) : Byte := w.extractLsb' 24 8

/-- `A = w[23:16]` (R90). -/
def aField (w : Word) : Byte := w.extractLsb' 16 8

/-- `B = w[15:0]` (R90). -/
def bField (w : Word) : Half := w.extractLsb' 0 16

/-- The field ids of R93. -/
def FieldId.code : FieldId → BitVec 4
  | .flow => 0
  | .flowTemp => 1
  | .co2 => 2
  | .co2Temp => 3
  | .co2Rh => 4
  | .pm1 => 5
  | .pm25 => 6
  | .pm4 => 7
  | .pm10 => 8
  | .voc => 9
  | .nox => 10
  | .pmTemp => 11
  | .pmRh => 12
  | .calOffset => 13
  | .calSlope => 14
  | .calTc => 15

/-- The field an id names (R93): all sixteen 4-bit ids are assigned. -/
def FieldId.ofCode (v : BitVec 4) : FieldId :=
  match v.toNat with
  | 0 => .flow
  | 1 => .flowTemp
  | 2 => .co2
  | 3 => .co2Temp
  | 4 => .co2Rh
  | 5 => .pm1
  | 6 => .pm25
  | 7 => .pm4
  | 8 => .pm10
  | 9 => .voc
  | 10 => .nox
  | 11 => .pmTemp
  | 12 => .pmRh
  | 13 => .calOffset
  | 14 => .calSlope
  | _ => .calTc

/-- `decode(w)` of R94: it depends on the word and on `MAX_PARAMS`, nothing else (R97). -/
def decode (c : Config) (w : Word) : Decoded :=
  match (opField w).toNat with
  | 0x01 =>
    if aField w = 0 ∧ bField w = 0 then .legal .crcInit else .illegal .nonzeroField
  | 0x02 =>
    if aField w = 0 ∧ (bField w).extractLsb' 8 8 = 0
    then .legal (.crcByte ((bField w).extractLsb' 0 8)) else .illegal .nonzeroField
  | 0x03 =>
    if aField w = 0 then .legal (.crcWord (bField w)) else .illegal .nonzeroField
  | 0x04 =>
    if (aField w).toNat ≤ c.maxParams
    then .legal (.frameEncode (aField w) (bField w)) else .illegal .tooManyParams
  | 0x05 => .legal (.checkWord (aField w) (bField w))
  | 0x06 =>
    if bField w = 0 then .legal (.frameDecode (aField w)) else .illegal .nonzeroField
  | 0x07 =>
    if (aField w).extractLsb' 4 4 = 0
    then .legal (.fieldDecode (FieldId.ofCode ((aField w).extractLsb' 0 4)) (bField w))
    else .illegal .nonzeroField
  | _ => .illegal .unlistedOpcode

/-- The word of a command: `OP ++ A ++ B` with the fields of R92. -/
def encode : Instr → Word
  | .crcInit => 0x01#8 ++ 0#8 ++ 0#16
  | .crcByte b => 0x02#8 ++ 0#8 ++ 0#8 ++ b
  | .crcWord p => 0x03#8 ++ 0#8 ++ p
  | .frameEncode m op16 => 0x04#8 ++ m ++ op16
  | .checkWord c p => 0x05#8 ++ c ++ p
  | .frameDecode n => 0x06#8 ++ n ++ 0#16
  | .fieldDecode f raw => 0x07#8 ++ 0#4 ++ f.code ++ raw

/-- One row of R92's match/mask table. -/
structure OpcodeRow where
  mnemonic : String
  pattern : Word
  mask : Word
  deriving DecidableEq, Repr

/-- R92's match/mask table. FRAME_ENCODE's row has the further condition `w[23:16] <= MAX_PARAMS`. -/
def opcodeRows : List OpcodeRow :=
  [{ mnemonic := "CRC_INIT", pattern := 0x01000000, mask := 0xFFFFFFFF },
   { mnemonic := "CRC_BYTE", pattern := 0x02000000, mask := 0xFFFFFF00 },
   { mnemonic := "CRC_WORD", pattern := 0x03000000, mask := 0xFFFF0000 },
   { mnemonic := "FRAME_ENCODE", pattern := 0x04000000, mask := 0xFF000000 },
   { mnemonic := "CHECK_WORD", pattern := 0x05000000, mask := 0xFF000000 },
   { mnemonic := "FRAME_DECODE", pattern := 0x06000000, mask := 0xFF00FFFF },
   { mnemonic := "FIELD_DECODE", pattern := 0x07000000, mask := 0xFFF00000 }]

/-- The command the decoder reads from an opcode-table word, for the build with R7's default parameters. A command is one 32-bit value (R90, R97), so the table's bit numbers are the word's own. -/
def decodeTableWord (nbits w : Nat) : Option Instr :=
  match decode Config.default (BitVec.ofNat 32 (w % 2 ^ nbits)) with
  | .legal i => some i
  | .illegal _ => none

end Sys2Proof
end

