-- ==== Sys2Proof/Machine/State.lean ====
section
/-! DEFINITION. The state of the block (10_state.md R38), the host port's requests and responses, and the state after reset (70_reset_and_hazards.md R230, R231). -/

namespace Sys2Proof.Machine

/-- No step of this machine faults: a failure of a command is a recorded outcome (60_exceptions.md R209), a HostAccessError is a response on the port that changes nothing (R206), and every command completes (70_reset_and_hazards.md R240). So there is no constructor (log 10). -/
inductive Fault : Type
  deriving DecidableEq, Repr

/-- Why a step has no meaning in this model. -/
inductive Refusal where
  /-- Raised only by an arm of `exec` whose command has no meaning yet (none is left); safe, since a step stops where the hardware goes on. -/
  | notModelled (mnemonic : String)
  deriving DecidableEq, Repr

/-- The values of `STATUS.ERR` (R25, R200). -/
inductive ErrKind where
  /-- 0: the command succeeded. -/
  | none
  /-- 1: `ChecksumError`. -/
  | checksum
  /-- 2: `LengthError`. -/
  | length
  /-- 3: `IllegalCommand`. -/
  | illegal
  deriving DecidableEq, Repr

/-- A failure kind with the information it is raised with (R200, R203). -/
inductive Failure where
  /-- `ChecksumError(i)`: the 0-based index of the failing DataWord (R143). -/
  | checksumError (index : Nat)
  /-- `LengthError()`: `RXLEN` is not `3n` (R142). -/
  | lengthError
  /-- `IllegalCommand()`: the word is ILLEGAL (R95). -/
  | illegalCommand
  deriving DecidableEq, Repr

/-- The fields of `STATUS` (R25). Its reserved bits hold nothing. -/
structure Status where
  /-- `STATUS[1:0]`. -/
  err : ErrKind
  /-- `STATUS[15:8]`. -/
  errIndex : Byte
  /-- `STATUS[23:16]`. -/
  count : Byte
  deriving DecidableEq, Repr

/-- The four buffers (R31 to R34), each a dense array of its slots: the spec's own record (R38, log 6). -/
structure Memory where
  rxbuf : List Byte
  payload : List Half
  param : List Half
  txbuf : List Byte
  deriving DecidableEq, Repr

/-- The width of a host request (R65). -/
inductive Width where
  | w8
  | w16
  | w32
  | w64
  deriving DecidableEq, Repr

/-- One request on the host port (R63 to R65). -/
inductive HostAccess where
  /-- A read of an offset. -/
  | read (width : Width) (off : Offset)
  /-- A write; `lanes` are the enabled byte lanes, `v` the 32-bit value (only a 32-bit write with all lanes is ever performed, log 12). -/
  | write (width : Width) (lanes : BitVec 4) (off : Offset) (v : Word)
  deriving DecidableEq, Repr

/-- What arrives from outside the block: a request of the host, or the platform's reset (R230, R232). -/
inductive HostEvent where
  | access (a : HostAccess)
  /-- Reset between two accesses. -/
  | reset
  /-- Reset while the command of a `CMD` write of `w` runs (R232). -/
  | resetDuring (w : Word)
  deriving DecidableEq, Repr

/-- How the block completes a request (R63 to R67, R70, R206). -/
inductive PortResponse where
  | readOk (data : Word)
  | writeOk
  /-- `HostAccessError` on a read, with the data returned. -/
  | readError (data : Word)
  /-- `HostAccessError` on a write. -/
  | writeError
  deriving DecidableEq, Repr

/-- The state: R38's record, then the model's own fields. -/
structure State where
  /-- `CTRL[3:0]` (R22). -/
  ctrl : BitVec 4
  /-- `STATUS` (R25). -/
  status : Status
  /-- `CRC[7:0]` (R26). -/
  crc : Byte
  /-- `RESULT_NUM` (R27). -/
  resultNum : Word
  /-- `RESULT_DEN` (R27). -/
  resultDen : Word
  /-- `RXLEN[7:0]` (R28). -/
  rxlen : Byte
  /-- `TXLEN[7:0]` (R29). -/
  txlen : Byte
  /-- RXBUF, PAYLOAD, PARAM, TXBUF (R31 to R34). -/
  mem : Memory
  /-- The build's parameters (R7): configuration that no step changes (log 1). -/
  cfg : Config
  /-- How many resets there have been: the argument of the next draw of buffer contents (R231, log 5). -/
  resets : Nat
  /-- The events still to come, the next one first (R73, log 3). -/
  port : List HostEvent
  /-- The response to the access completed last, if there was one since reset (log 4). -/
  resp : Option PortResponse
  deriving DecidableEq, Repr

/-- What a command ends in. -/
abbrev Result := Host.Outcome State Fault Refusal

/-- The state when reset number `k` is released (R230), for parameters `c`: every register at its reset value, every buffer slot at its draw (R231). -/
def State.atReset (c : Config) (k : Nat) : State where
  ctrl := 0
  status := { err := .none, errIndex := 0, count := 0 }
  crc := 0xFF
  resultNum := 0
  resultDen := 1
  rxlen := 0
  txlen := 0
  mem :=
    { rxbuf := (List.range c.rxCap).map fun i => Config.drawByte k (0x400 + 4 * i)
      payload := (List.range c.maxWords).map fun i => Config.drawHalf k (0x800 + 4 * i)
      param := (List.range c.maxParams).map fun i => Config.drawHalf k (0xC00 + 4 * i)
      txbuf := (List.range c.txCap).map fun i => Config.drawByte k (0x1000 + 4 * i) }
  cfg := c
  resets := k + 1
  port := []
  resp := none

/-- The machine right after its first reset, with R7's default parameters and no request pending. -/
def State.reset : State := State.atReset Config.default 0

end Sys2Proof.Machine
end

