-- ==== Sys2Proof/Machine/Operands.lean ====
section
/-! DEFINITION. Operand forms: the bytes of a 16-bit word in wire order (30_encoding.md R91, 20_memory.md R79), the signed conversion (00_scope.md R10, 43_field_decoders.md R162) and the field table (43_field_decoders.md R160, R161). -/

namespace Sys2Proof.Machine

/-- `v[15:8]`, the first byte on the wire (R79, R91). -/
def hiByte (v : Half) : Byte := v.extractLsb' 8 8

/-- `v[7:0]`, the second byte on the wire (R79, R91). -/
def loByte (v : Half) : Byte := v.extractLsb' 0 8

/-- `hi ++ lo`, the big-endian merge (R9). -/
def joinBytes (hi lo : Byte) : Half := hi ++ lo

/-- `sext_16` (R10): `v - 2^16` if `v >= 2^15`, else `v`. -/
def sext16 (v : Half) : Int :=
  if 2 ^ 15 ≤ v.toNat then (v.toNat : Int) - 2 ^ 16 else (v.toNat : Int)

/-- `zext_16` (R10): the value read as unsigned. -/
def zext16 (v : Half) : Int := (v.toNat : Int)

/-- `sint32` (R27): `v - 2^32` if `v >= 2^31`, else `v`. -/
def sint32 (v : Word) : Int :=
  if 2 ^ 31 ≤ v.toNat then (v.toNat : Int) - 2 ^ 32 else (v.toNat : Int)

/-- `num & 0xFFFFFFFF`: a signed value as its 32-bit two's-complement pattern (R10). -/
def toPattern32 (num : Int) : Word := BitVec.ofInt 32 num

/-- Column "signed" of R160. -/
inductive Signedness where
  | always
  | never
  /-- The `CTRL` flag of this bit number decides (R22). -/
  | flag (bit : Nat)
  deriving DecidableEq, Repr

/-- One row of R160: the value is `(a * s + b) / d`. -/
structure FieldRow where
  signed : Signedness
  a : Int
  b : Int
  d : Nat
  deriving DecidableEq, Repr

/-- The field table (R160, R161). -/
def fieldRow : FieldId → FieldRow
  | .flow => { signed := .always, a := 1, b := 0, d := 1200 }
  | .flowTemp => { signed := .never, a := 1, b := 0, d := 200 }
  | .co2 => { signed := .never, a := 1, b := 0, d := 1 }
  | .co2Temp => { signed := .never, a := 175, b := -2949120, d := 65536 }
  | .co2Rh => { signed := .never, a := 100, b := 0, d := 65536 }
  | .pm1 => { signed := .flag 0, a := 1, b := 0, d := 10 }
  | .pm25 => { signed := .flag 1, a := 1, b := 0, d := 10 }
  | .pm4 => { signed := .flag 2, a := 1, b := 0, d := 10 }
  | .pm10 => { signed := .flag 3, a := 1, b := 0, d := 10 }
  | .voc => { signed := .never, a := 1, b := 0, d := 10 }
  | .nox => { signed := .never, a := 1, b := 0, d := 10 }
  | .pmTemp => { signed := .always, a := 1, b := 0, d := 200 }
  | .pmRh => { signed := .never, a := 1, b := 0, d := 100 }
  | .calOffset => { signed := .always, a := 1, b := 0, d := 200 }
  | .calSlope => { signed := .never, a := 1, b := 0, d := 10000 }
  | .calTc => { signed := .never, a := 1, b := 0, d := 1 }

/-- Whether a field is decoded signed under the flags of `CTRL` (R161, R163). -/
def fieldSigned (ctrl : BitVec 4) (f : FieldId) : Bool :=
  match (fieldRow f).signed with
  | .always => true
  | .never => false
  | .flag bit => ctrl.getLsbD bit

/-- `s` of R163, the payload as a mathematical integer: converted before any scaling (R162). -/
def fieldValue (ctrl : BitVec 4) (f : FieldId) (raw : Half) : Int :=
  if fieldSigned ctrl f then sext16 raw else zext16 raw

/-- `num = a_f * s + b_f` (R163). -/
def fieldNum (ctrl : BitVec 4) (f : FieldId) (raw : Half) : Int :=
  (fieldRow f).a * fieldValue ctrl f raw + (fieldRow f).b

/-- `d_f` as the 32-bit value of `RESULT_DEN` (R163). -/
def fieldDen (f : FieldId) : Word := BitVec.ofNat 32 (fieldRow f).d

end Sys2Proof.Machine
end

