-- ==== Sys2Proof/Machine/Flags.lean ====
section
/-! DEFINITION. The block's only flags: the fields of STATUS (10_state.md R25, R35) and what each failure kind records in them (60_exceptions.md R200, R203). -/

namespace Sys2Proof.Machine

/-- The codes of `STATUS.ERR` (R200). -/
def ErrKind.code : ErrKind → BitVec 2
  | .none => 0
  | .checksum => 1
  | .length => 2
  | .illegal => 3

/-- `STATUS` as the host reads it: `COUNT` in 23:16, `ERR_INDEX` in 15:8, `ERR` in 1:0, reserved bits 0 (R25, R20). -/
def Status.toWord (st : Status) : Word :=
  0#8 ++ st.count ++ st.errIndex ++ 0#6 ++ st.err.code

/-- `code(E)` of R203. -/
def Failure.kind : Failure → ErrKind
  | .checksumError _ => .checksum
  | .lengthError => .length
  | .illegalCommand => .illegal

/-- `STATUS.ERR_INDEX` of R203: the word's index for a ChecksumError, 0 in every other case. -/
def Failure.index : Failure → Byte
  | .checksumError i => BitVec.ofNat 8 i
  | .lengthError => 0
  | .illegalCommand => 0

/-- `STATUS` after `raise E(info)`: ERR and ERR_INDEX written, COUNT kept (R203). -/
def Status.raise (f : Failure) (st : Status) : Status :=
  { st with err := f.kind, errIndex := f.index }

/-- `STATUS` after a success: `ERR <- 0; ERR_INDEX <- 0`, COUNT kept (R200). -/
def Status.succeed (st : Status) : Status :=
  { st with err := .none, errIndex := 0 }

end Sys2Proof.Machine
end

