-- ==== Sys2Proof/Machine/Ops.lean ====
section
/-! DEFINITION. The named operations on the registers and buffers: slot access, register updates, recording a success or a failure (60_exceptions.md R203, the block's "trap entry"; there is no return operation, R208), and the loops of FRAME_ENCODE and FRAME_DECODE. -/

namespace Sys2Proof.Machine

/-! ### Buffers -/

/-- The value of slot `i` (R11). Outside the array, where no access or command of a well-formed state reaches (R78), it is 0 (log 13). -/
def readSlot {w : Nat} (buf : List (BitVec w)) (i : Nat) : BitVec w := buf.getD i 0

/-- `BUF[i] <- v` (R11). Outside the array nothing is written. -/
def writeSlot {w : Nat} (buf : List (BitVec w)) (i : Nat) (v : BitVec w) : List (BitVec w) := buf.set i v

/-- The canonical form of the buffers: each array has exactly its capacity (R38), so equal contents are equal data. -/
def Memory.wf (c : Config) (m : Memory) : Bool :=
  decide (m.rxbuf.length = c.rxCap) && decide (m.payload.length = c.maxWords) &&
    decide (m.param.length = c.maxParams) && decide (m.txbuf.length = c.txCap)

/-! ### Constants the host reads -/

/-- `ID` (R21). -/
def idValue : Word := 0x43524338#32

/-- `CAPS = MAX_PARAMS << 8 | MAX_WORDS` (R30). -/
def capsWord (c : Config) : Word :=
  0#16 ++ BitVec.ofNat 8 c.maxParams ++ BitVec.ofNat 8 c.maxWords

/-! ### Register updates -/

/-- `CTRL <- v`. -/
def State.setCtrl (v : BitVec 4) (s : State) : State := { s with ctrl := v }

/-- `STATUS <- v`. -/
def State.setStatus (v : Status) (s : State) : State := { s with status := v }

/-- `CRC <- v`. -/
def State.setCrc (v : Byte) (s : State) : State := { s with crc := v }

/-- `RESULT_NUM <- num; RESULT_DEN <- den`. -/
def State.setResult (num den : Word) (s : State) : State := { s with resultNum := num, resultDen := den }

/-- `RXLEN <- v`. -/
def State.setRxlen (v : Byte) (s : State) : State := { s with rxlen := v }

/-- `TXLEN <- v`. -/
def State.setTxlen (v : Byte) (s : State) : State := { s with txlen := v }

/-- RXBUF as a whole. -/
def State.setRxbuf (v : List Byte) (s : State) : State := { s with mem := { s.mem with rxbuf := v } }

/-- PAYLOAD as a whole. -/
def State.setPayload (v : List Half) (s : State) : State := { s with mem := { s.mem with payload := v } }

/-- PARAM as a whole. -/
def State.setParam (v : List Half) (s : State) : State := { s with mem := { s.mem with param := v } }

/-- TXBUF as a whole. -/
def State.setTxbuf (v : List Byte) (s : State) : State := { s with mem := { s.mem with txbuf := v } }

/-- The events still to come. -/
def State.setPort (v : List HostEvent) (s : State) : State := { s with port := v }

/-- The block's response to the access just completed. -/
def State.respond (r : PortResponse) (s : State) : State := { s with resp := some r }

/-- `STATUS.COUNT <- v`. -/
def State.setCount (v : Byte) (s : State) : State := s.setStatus { s.status with count := v }

/-! ### Ending a command -/

/-- `raise E(info)`: ERR and ERR_INDEX are written and nothing else (R203). -/
def State.raise (f : Failure) (s : State) : State := s.setStatus (s.status.raise f)

/-- A command that succeeded: `STATUS.ERR <- 0; STATUS.ERR_INDEX <- 0` (R200). -/
def State.succeed (s : State) : State := s.setStatus s.status.succeed

/-! ### The loops over frames -/

/-- The loop of R131 over `j = 0 .. m-1`: writes the triplet of each parameter word into TXBUF. -/
def encodeWords (param : List Half) : Nat → List Byte → List Byte
  | 0, tx => tx
  | j + 1, tx =>
    let tx' := encodeWords param j tx
    let p := readSlot param j
    writeSlot (writeSlot (writeSlot tx' (2 + 3 * j) (hiByte p)) (3 + 3 * j) (loByte p))
      (4 + 3 * j) (checksum (hiByte p) (loByte p))

/-- TXBUF after FRAME_ENCODE `m, op16` (R131). -/
def encodeFrame (param : List Half) (m : Nat) (op16 : Half) (tx : List Byte) : List Byte :=
  encodeWords param m (writeSlot (writeSlot tx 0 (hiByte op16)) 1 (loByte op16))

/-- Group `i` of RXBUF passes the check of R143. -/
def groupOk (rx : List Byte) (i : Nat) : Bool :=
  readSlot rx (3 * i + 2) == checksum (readSlot rx (3 * i)) (readSlot rx (3 * i + 1))

/-- The first failing group among the `k` groups from `i` on, in ascending order (R143). -/
def firstBadGroup (rx : List Byte) : Nat → Nat → Option Nat
  | 0, _ => none
  | k + 1, i => if groupOk rx i then firstBadGroup rx k (i + 1) else some i

/-- The payload of group `i`: `RXBUF[3i] ++ RXBUF[3i+1]` (R79, R144). -/
def groupPayload (rx : List Byte) (i : Nat) : Half :=
  joinBytes (readSlot rx (3 * i)) (readSlot rx (3 * i + 1))

/-- The publishing loop of R145 over `i = 0 .. n-1`. -/
def publish (rx : List Byte) : Nat → List Half → List Half
  | 0, pay => pay
  | i + 1, pay => writeSlot (publish rx i pay) i (groupPayload rx i)

end Sys2Proof.Machine
end

