-- ==== Sys2Proof/Machine/Checksum.lean ====
section
/-! DEFINITION. The checksum family: CRC_INIT, CRC_BYTE, CRC_WORD (40_checksum.md R112 to R114). -/

namespace Sys2Proof.Machine

/-- CRC_INIT (R112): `CRC <- 0xFF`. -/
def execCrcInit (s : State) : Result := .next (s.setCrc 0xFF#8).succeed

/-- CRC_BYTE b (R113): `CRC <- crc8_byte(CRC, b)`. -/
def execCrcByte (b : Byte) (s : State) : Result := .next (s.setCrc (crc8Byte s.crc b)).succeed

/-- CRC_WORD p (R114): `CRC <- checksum(p[15:8], p[7:0])`, whatever CRC held. -/
def execCrcWord (p : Half) (s : State) : Result :=
  .next (s.setCrc (checksum (hiByte p) (loByte p))).succeed

end Sys2Proof.Machine
end

