-- ==== Sys2Proof/Machine/Encoder.lean ====
section
/-! DEFINITION. The command encoder: FRAME_ENCODE (41_command_encoder.md R131). -/

namespace Sys2Proof.Machine

/-- FRAME_ENCODE m, op16 (R131). A count above `MAX_PARAMS` is IllegalCommand; the decoder already rejects such a word (R94), so this arm decides only for a term that no word encodes (log 11). -/
def execFrameEncode (m : Byte) (op16 : Half) (s : State) : Result :=
  if m.toNat ≤ s.cfg.maxParams then
    .next ((s.setTxbuf (encodeFrame s.mem.param m.toNat op16 s.mem.txbuf)).setTxlen
      (BitVec.ofNat 8 (2 + 3 * m.toNat))).succeed
  else .next (s.raise .illegalCommand)

end Sys2Proof.Machine
end

