-- ==== Sys2Proof/Machine/Field.lean ====
section
/-! DEFINITION. The field decoders: FIELD_DECODE (43_field_decoders.md R163). -/

namespace Sys2Proof.Machine

/-- FIELD_DECODE f, raw (R163): `RESULT_NUM <- (a_f * s + b_f) & 0xFFFFFFFF; RESULT_DEN <- d_f`, the fraction not reduced. -/
def execFieldDecode (f : FieldId) (raw : Half) (s : State) : Result :=
  .next (s.setResult (toPattern32 (fieldNum s.ctrl f raw)) (fieldDen f)).succeed

end Sys2Proof.Machine
end

