-- ==== Sys2Proof/Machine/Response.lean ====
section
/-! DEFINITION. The response decoder: CHECK_WORD, FRAME_DECODE (42_response_decoder.md R140, R145). -/

namespace Sys2Proof.Machine

/-- CHECK_WORD p, c (R140). -/
def execCheckWord (c : Byte) (p : Half) (s : State) : Result :=
  if c = checksum (hiByte p) (loByte p) then .next s.succeed
  else .next (s.raise (.checksumError 0))

/-- FRAME_DECODE n (R145): the length check, then the groups in ascending order (R142, R143), then the payloads, all or nothing (R144). -/
def execFrameDecode (n : Byte) (s : State) : Result :=
  if s.rxlen.toNat = 3 * n.toNat then
    match firstBadGroup s.mem.rxbuf n.toNat 0 with
    | some i => .next ((s.setCount 0).raise (.checksumError i))
    | none =>
      .next ((s.setPayload (publish s.mem.rxbuf n.toNat s.mem.payload)).setCount n).succeed
  else .next ((s.setCount 0).raise .lengthError)

end Sys2Proof.Machine
end

