-- ==== Sys2Proof/Machine/Dispatch.lean ====
section
/-! DEFINITION. One arm per command: the meaning it runs. -/

namespace Sys2Proof.Machine

def exec (i : Instr) (s : State) : Host.Outcome State Fault Refusal :=
  match i with
  | .crcInit => Sys2Proof.Machine.execCrcInit s
  | .crcByte b => Sys2Proof.Machine.execCrcByte b s
  | .crcWord p => Sys2Proof.Machine.execCrcWord p s
  | .frameEncode m op16 => Sys2Proof.Machine.execFrameEncode m op16 s
  | .checkWord c p => Sys2Proof.Machine.execCheckWord c p s
  | .frameDecode n => Sys2Proof.Machine.execFrameDecode n s
  | .fieldDecode f raw => Sys2Proof.Machine.execFieldDecode f raw s

end Sys2Proof.Machine
end

