-- ==== Sys2Proof/Machine/Window.lean ====
section
/-! DEFINITION. The host window (20_memory.md R60 to R70): the address map, which accesses are legal, what a location reads as and what a write to it does. -/

namespace Sys2Proof.Machine

/-- A mapped location of the window (R61). -/
inductive Target where
  | id
  | ctrl
  | cmd
  | status
  | crc
  | resultNum
  | resultDen
  | rxlen
  | txlen
  | caps
  | rxbuf (i : Nat)
  | payload (i : Nat)
  | param (j : Nat)
  | txbuf (k : Nat)
  deriving DecidableEq, Repr

/-- Why an access completes with HostAccessError (R65 to R67). All four have the same effect (R68); the block records none. -/
inductive AccessError where
  /-- Not a whole 32-bit access (R65). -/
  | width
  /-- `a % 4 != 0` (R66). -/
  | misaligned
  /-- The offset is not mapped (R62, R67). -/
  | unmapped
  /-- A write of `v > RXCAP` to RXLEN (R67). -/
  | rxlenValue
  deriving DecidableEq, Repr

/-- What an access comes to: a location, or HostAccessError. -/
inductive Access where
  | ok (t : Target)
  | error (e : AccessError)
  deriving DecidableEq, Repr

/-- Slot `i` of a buffer when the index is below its mapped count (R62). -/
def mappedSlot (i cap : Nat) (t : Target) : Option Target := if i < cap then some t else none

/-- The register at index `k` of the register table, at offset `4k` (10_state.md section 1). -/
def registerAt (k : Nat) : Option Target :=
  match k with
  | 0 => some .id
  | 1 => some .ctrl
  | 2 => some .cmd
  | 3 => some .status
  | 4 => some .crc
  | 5 => some .resultNum
  | 6 => some .resultDen
  | 7 => some .rxlen
  | 8 => some .txlen
  | 9 => some .caps
  | _ => none

/-- The address map of R61 for a 4-aligned offset: the location there, none where the window is unmapped. -/
def mapAddress (c : Config) (a : Nat) : Option Target :=
  if a < 0x400 then registerAt (a / 4)
  else if a < 0x800 then mappedSlot ((a - 0x400) / 4) c.rxCap (.rxbuf ((a - 0x400) / 4))
  else if a < 0xC00 then mappedSlot ((a - 0x800) / 4) c.maxWords (.payload ((a - 0x800) / 4))
  else if a < 0x1000 then mappedSlot ((a - 0xC00) / 4) c.maxParams (.param ((a - 0xC00) / 4))
  else if a < 0x1400 then mappedSlot ((a - 0x1000) / 4) c.txCap (.txbuf ((a - 0x1000) / 4))
  else none

/-- The offset is mapped (R62): 4-aligned, and a register's or a mapped slot's. -/
def targetAt (c : Config) (a : Offset) : Option Target :=
  if a.toNat % 4 = 0 then mapAddress c a.toNat else none

/-- The width, the alignment and the map, in the order R68 allows (R65 to R67). -/
def locate (c : Config) (whole : Bool) (a : Offset) : Access :=
  if !whole then .error .width
  else if a.toNat % 4 ≠ 0 then .error .misaligned
  else
    match mapAddress c a.toNat with
    | some t => .ok t
    | none => .error .unmapped

/-- The one write value that is refused: above RXCAP, to RXLEN (R67). -/
def checkValue (c : Config) (v : Word) : Access → Access
  | .ok t => if t = .rxlen ∧ c.rxCap < v.toNat then .error .rxlenValue else .ok t
  | .error e => .error e

/-- Whether a request is legal, and which location it goes to (R65 to R67). -/
def resolve (c : Config) : HostAccess → Access
  | .read width off => locate c (width == .w32) off
  | .write width lanes off v =>
    checkValue c v (locate c (width == .w32 && lanes == 0xF#4) off)

/-- The 32-bit value a location reads as, reserved bits 0 (R20, R63); a read has no side effect (R69). -/
def State.readTarget (s : State) : Target → Word
  | .id => idValue
  | .ctrl => s.ctrl.setWidth 32
  | .cmd => 0
  | .status => s.status.toWord
  | .crc => s.crc.setWidth 32
  | .resultNum => s.resultNum
  | .resultDen => s.resultDen
  | .rxlen => s.rxlen.setWidth 32
  | .txlen => s.txlen.setWidth 32
  | .caps => capsWord s.cfg
  | .rxbuf i => (readSlot s.mem.rxbuf i).setWidth 32
  | .payload i => (readSlot s.mem.payload i).setWidth 32
  | .param j => (readSlot s.mem.param j).setWidth 32
  | .txbuf k => (readSlot s.mem.txbuf k).setWidth 32

/-- What the window holds at an offset: none where it is unmapped. -/
def State.readAt (s : State) (a : Offset) : Option Word := (targetAt s.cfg a).map s.readTarget

/-- The effect of a legal write on the registers and buffers (R64). A `CMD` write stores nothing (R23); the command it starts is run by the port. A read-only location keeps its value (R70). -/
def State.writeTarget (s : State) (v : Word) : Target → State
  | .id => s
  | .ctrl => s.setCtrl (v.extractLsb' 0 4)
  | .cmd => s
  | .status => s
  | .crc => s
  | .resultNum => s
  | .resultDen => s
  | .rxlen => s.setRxlen (v.extractLsb' 0 8)
  | .txlen => s
  | .caps => s
  | .rxbuf i => s.setRxbuf (writeSlot s.mem.rxbuf i (v.extractLsb' 0 8))
  | .payload _ => s
  | .param j => s.setParam (writeSlot s.mem.param j (v.extractLsb' 0 16))
  | .txbuf _ => s

/-- The offset of a location (R61), if its slot index is below 256, the slots a buffer's range addresses. -/
def Target.offset : Target → Option Offset
  | .id => some 0x000
  | .ctrl => some 0x004
  | .cmd => some 0x008
  | .status => some 0x00C
  | .crc => some 0x010
  | .resultNum => some 0x014
  | .resultDen => some 0x018
  | .rxlen => some 0x01C
  | .txlen => some 0x020
  | .caps => some 0x024
  | .rxbuf i => if i < 256 then some (BitVec.ofNat 13 (0x400 + 4 * i)) else none
  | .payload i => if i < 256 then some (BitVec.ofNat 13 (0x800 + 4 * i)) else none
  | .param j => if j < 256 then some (BitVec.ofNat 13 (0xC00 + 4 * j)) else none
  | .txbuf k => if k < 256 then some (BitVec.ofNat 13 (0x1000 + 4 * k)) else none

/-- A whole 32-bit write: `MemWrite(a, 4, v)` (R64). -/
def memWrite (a : Offset) (v : Word) : HostAccess := .write .w32 0xF#4 a v

/-- A whole 32-bit read: `MemRead(a, 4)` (R63). -/
def memRead (a : Offset) : HostAccess := .read .w32 a

/-- `MemWrite` of a command word to `CMD`, offset 0x008 (R23). -/
def cmdWrite (w : Word) : HostAccess := memWrite 0x008#13 w

end Sys2Proof.Machine
end

