-- ==== Sys2Proof/Machine/Port.lean ====
section
/-! DEFINITION. The host port (20_memory.md R63 to R73): performing one request, running the command of a `CMD` write, and reset (70_reset_and_hazards.md R230, R232). -/

namespace Sys2Proof.Machine

/-- The command a `CMD` write of `w` starts: the decoded command, or `raise IllegalCommand()` (R94, R95). -/
def runCommand (w : Word) (s : State) : Result :=
  match decode s.cfg w with
  | .legal i => exec i s
  | .illegal _ => .next (s.raise .illegalCommand)

/-- A legal write (R64): to `CMD` it runs the command, elsewhere it stores. -/
def performWrite (t : Target) (v : Word) (s : State) : Result :=
  if t = .cmd then runCommand v s else .next (s.writeTarget v t)

/-- The write completes when its command has (R23, R240). -/
def completeWrite : Result → Result
  | .next t => .next (t.respond .writeOk)
  | .fault r => .fault r
  | .refused r => .refused r

/-- One request of the host (R63 to R67): HostAccessError changes nothing and returns 0 for a read. -/
def performAccess (a : HostAccess) (s : State) : Result :=
  match a with
  | .read width off =>
    match resolve s.cfg (.read width off) with
    | .ok t => .next (s.respond (.readOk (s.readTarget t)))
    | .error _ => .next (s.respond (.readError 0))
  | .write width lanes off v =>
    match resolve s.cfg (.write width lanes off v) with
    | .ok t => completeWrite (performWrite t v s)
    | .error _ => .next (s.respond .writeError)

/-- Reset (R230, R231): the reset state with the next draw of buffer contents; the events still to come stay (log 7). -/
def State.resetNow (s : State) : State := (State.atReset s.cfg s.resets).setPort s.port

/-- One event. A reset that arrives while a command runs abandons it: the state is the reset state and its `CMD` write is not completed (R232, log 8). -/
def performEvent (e : HostEvent) (s : State) : Result :=
  match e with
  | .access a => performAccess a s
  | .reset => .next s.resetNow
  | .resetDuring _ => .next s.resetNow

/-- One step of the block: the next pending event, or idle, keeping all state (R216, R233). -/
def stepPort (s : State) : Result :=
  match s.port with
  | [] => .next s
  | e :: rest => performEvent e (s.setPort rest)

/-- `s` with a `CMD` write of `w` as the next event. -/
def State.queueCommand (w : Word) (s : State) : State := s.setPort (.access (cmdWrite w) :: s.port)

end Sys2Proof.Machine
end

