-- ==== Sys2Proof/Machine/Step.lean ====
section
/-! DEFINITION. One step of the machine: one host access (with its command, atomically: 70_reset_and_hazards.md R243), one reset, or idle. -/

namespace Sys2Proof.Machine

/-- One step: each access completes before the next starts (20_memory.md R73). -/
def step (s : State) : Host.Outcome State Fault Refusal := stepPort s

/-- `s` with the command word `w` as the very next `CMD` write. The block fetches nothing (R24): a program is the host's accesses, loaded from outside into `State.port` (log 9). -/
def State.withFetchWord (s : State) (nbits w : Nat) : State :=
  s.queueCommand (BitVec.ofNat 32 (w % 2 ^ nbits))

end Sys2Proof.Machine
end

