-- ==== Sys2Proof/Machine/Assembler.lean ====
section
/-! DEFINITION. The spec's assembly notation for host programs (30_encoding.md R98, R99): each line becomes host accesses, or is rejected. -/

namespace Sys2Proof.Machine

/-- One line of a host program. Operands are the numbers as written. -/
inductive AsmLine where
  /-- `wr REG, v`. -/
  | wr (reg : Target) (v : Nat)
  /-- `rd REG`. -/
  | rd (reg : Target)
  /-- `crc.init`. -/
  | crcInit
  /-- `crc.byte b`. -/
  | crcByte (b : Nat)
  /-- `crc.word p`. -/
  | crcWord (p : Nat)
  /-- `frame.encode m, op16`. -/
  | frameEncode (m op16 : Nat)
  /-- `check.word p, c`: payload first, checksum second. -/
  | checkWord (p c : Nat)
  /-- `frame.decode n`. -/
  | frameDecode (n : Nat)
  /-- `field.decode name, raw`. -/
  | fieldDecode (name : FieldId) (raw : Nat)
  /-- `rx.load b0, b1, ...` (R99). -/
  | rxLoad (bytes : List Nat)
  /-- `param.load p0, ...` (R99). -/
  | paramLoad (words : List Nat)
  /-- `crc.bytes b0, ...` (R99). -/
  | crcBytes (bytes : List Nat)
  /-- `nop` (R99). -/
  | nop
  deriving DecidableEq, Repr

/-- A number that fits a field of `width` bits; an assembler rejects one that does not (R98). -/
def fitField (width v : Nat) : Option (BitVec width) :=
  if v < 2 ^ width then some (BitVec.ofNat width v) else none

/-- What `wr` may name (R98): a register, RXBUF[i] or PARAM[j]. -/
def Target.writable : Target → Bool
  | .payload _ => false
  | .txbuf _ => false
  | .id => true
  | .ctrl => true
  | .cmd => true
  | .status => true
  | .crc => true
  | .resultNum => true
  | .resultDen => true
  | .rxlen => true
  | .txlen => true
  | .caps => true
  | .rxbuf _ => true
  | .param _ => true

/-- `wr REG, v` (R98). -/
def asmWrite (reg : Target) (v : Nat) : Option HostAccess :=
  if reg.writable then
    match reg.offset, fitField 32 v with
    | some a, some w => some (memWrite a w)
    | _, _ => none
  else none

/-- `rd REG` (R98). -/
def asmRead (reg : Target) : Option HostAccess := reg.offset.map memRead

/-- A mnemonic form: the `CMD` write of its word, rejected where the word would be ILLEGAL (R98). -/
def asmCommand (c : Config) (i : Instr) : Option HostAccess :=
  if i.wf c then some (cmdWrite (encode i)) else none

/-- `BUF[k], BUF[k+1], ...` written in order, as R99 expands `rx.load` and `param.load`. -/
def asmFill (slot : Nat → Target) : Nat → List Nat → Option (List HostAccess)
  | _, [] => some []
  | k, v :: vs => do
    let a ← asmWrite (slot k) v
    let rest ← asmFill slot (k + 1) vs
    return a :: rest

/-- `crc.byte b` for each byte in order (R99). -/
def asmBytes (c : Config) : List Nat → Option (List HostAccess)
  | [] => some []
  | b :: bs => do
    let v ← fitField 8 b
    let a ← asmCommand c (.crcByte v)
    let rest ← asmBytes c bs
    return a :: rest

/-- The accesses of a line (R98, R99), none where the assembler rejects it. -/
def assemble (c : Config) : AsmLine → Option (List HostAccess)
  | .wr reg v => (asmWrite reg v).map ([·])
  | .rd reg => (asmRead reg).map ([·])
  | .crcInit => (asmCommand c .crcInit).map ([·])
  | .crcByte b => do
    let b ← fitField 8 b
    (asmCommand c (.crcByte b)).map ([·])
  | .crcWord p => do
    let p ← fitField 16 p
    (asmCommand c (.crcWord p)).map ([·])
  | .frameEncode m op16 => do
    let m ← fitField 8 m
    let op16 ← fitField 16 op16
    (asmCommand c (.frameEncode m op16)).map ([·])
  | .checkWord p k => do
    let p ← fitField 16 p
    let k ← fitField 8 k
    (asmCommand c (.checkWord k p)).map ([·])
  | .frameDecode n => do
    let n ← fitField 8 n
    (asmCommand c (.frameDecode n)).map ([·])
  | .fieldDecode name raw => do
    let raw ← fitField 16 raw
    (asmCommand c (.fieldDecode name raw)).map ([·])
  | .rxLoad bytes => do
    let fill ← asmFill .rxbuf 0 bytes
    let len ← asmWrite .rxlen bytes.length
    return fill ++ [len]
  | .paramLoad words => asmFill .param 0 words
  | .crcBytes bytes => do
    let first ← asmCommand c .crcInit
    let rest ← asmBytes c bytes
    return first :: rest
  | .nop => (asmRead .status).map ([·])

/-- A host program: the accesses of its lines in order, as events of the port. -/
def assembleProgram (c : Config) : List AsmLine → Option (List HostEvent)
  | [] => some []
  | l :: ls => do
    let here ← assemble c l
    let rest ← assembleProgram c ls
    return here.map .access ++ rest

end Sys2Proof.Machine
end

