-- ==== Sys2Proof/Safety.lean ====
section
/-! DEFINITION. What holds in every state the block can be in: the ranges of the spec's state record (10_state.md R25 to R38) and the relations between its fields that the commands keep. -/

namespace Sys2Proof.Machine

/-- The values `RESULT_DEN` takes (R27). -/
def resultDens : List Word := [1, 10, 100, 200, 1200, 10000, 65536]

/-- The invariant of the block. -/
structure State.Inv (s : State) : Prop where
  /-- The parameters are in R7's ranges. -/
  cfg_legal : s.cfg.legal = true
  /-- Each buffer has exactly its capacity (R38). -/
  mem_wf : s.mem.wf s.cfg = true
  /-- `RXLEN` is in 0..RXCAP (R28). -/
  rxlen_le : s.rxlen.toNat ≤ s.cfg.rxCap
  /-- `TXLEN` is 0 or `2 + 3m` with `m <= MAX_PARAMS` (R29). -/
  txlen_shape : s.txlen = 0 ∨ ∃ m, m ≤ s.cfg.maxParams ∧ s.txlen.toNat = 2 + 3 * m
  /-- `RESULT_DEN` is one of R27's values. -/
  den_mem : s.resultDen ∈ resultDens
  /-- `RESULT_NUM` is in the range of R164. -/
  num_range : -2949120 ≤ sint32 s.resultNum ∧ sint32 s.resultNum ≤ 8519505
  /-- `COUNT` counts published payload words (R25, R145). -/
  count_le : s.status.count.toNat ≤ s.cfg.maxWords
  /-- `ERR_INDEX` is 0 unless `ERR = CHECKSUM` (R25). -/
  index_zero : s.status.err ≠ .checksum → s.status.errIndex = 0
  /-- `ERR_INDEX` names a DataWord a frame can have (R25, R145). -/
  index_lt : s.status.errIndex.toNat < s.cfg.maxWords

/-- `k` steps of the machine, stopping at the first fault or refusal. -/
def runSteps : Nat → State → Result
  | 0, s => .next s
  | k + 1, s =>
    match step s with
    | .next t => runSteps k t
    | .fault r => .fault r
    | .refused r => .refused r

/-- A run is safe when it never stops and every state it reaches keeps the invariant. -/
def Safe (s : State) : Prop := ∀ k, ∃ t, runSteps k s = .next t ∧ t.Inv

end Sys2Proof.Machine
end

