-- ==== Sys2Proof/Certificates/Slice0/Obligations.lean ====
section
/-! DEFINITION. The statements for the provers, each one a rule of the spec (or several) said of this model. The first section holds the words they are said in. -/

namespace Sys2Proof.Machine

/-! ### Words the statements use -/

/-- `OP`, `A` and `B` of a word by arithmetic on its value (R90). -/
def opNumber (w : Word) : Nat := w.toNat / 2 ^ 24

/-- `A` (R90). -/
def aNumber (w : Word) : Nat := w.toNat / 2 ^ 16 % 2 ^ 8

/-- `B` (R90). -/
def bNumber (w : Word) : Nat := w.toNat % 2 ^ 16

/-- The causes R202 lists. -/
def IllegalCause (c : Config) (w : Word) : Prop :=
  opNumber w = 0x00 ∨ (0x08 ≤ opNumber w ∧ opNumber w ≤ 0xFF) ∨
  (opNumber w = 0x01 ∧ (aNumber w ≠ 0 ∨ bNumber w ≠ 0)) ∨
  (opNumber w = 0x02 ∧ (aNumber w ≠ 0 ∨ bNumber w / 2 ^ 8 ≠ 0)) ∨
  (opNumber w = 0x03 ∧ aNumber w ≠ 0) ∨
  (opNumber w = 0x04 ∧ c.maxParams < aNumber w) ∨
  (opNumber w = 0x06 ∧ bNumber w ≠ 0) ∨
  (opNumber w = 0x07 ∧ aNumber w / 2 ^ 4 ≠ 0)

/-- The loop body of R110 on numbers. -/
def crcStepNumber (c : Nat) : Nat :=
  if c / 2 ^ 7 % 2 = 1 then ((2 * c) ^^^ 0x31) % 2 ^ 8 else 2 * c % 2 ^ 8

/-- `crc8_byte` as R110 writes it, on numbers. -/
def crcByteNumber (c b : Nat) : Nat := crcStepNumber^[8] ((c ^^^ b) % 2 ^ 8)

/-- A 24-bit DataWord `b0, b1, c` passes its check (R120, R141). -/
def dataWordOk (w : BitVec 24) : Bool :=
  w.extractLsb' 0 8 == checksum (w.extractLsb' 16 8) (w.extractLsb' 8 8)

/-- How many bits a set of flipped bits has (R120). -/
def flipCount (e : BitVec 24) : Nat := ((List.range 24).filter e.getLsbD).length

/-- The flipped bits lie within 8 consecutive bit positions (R120). -/
def inBurst (e : BitVec 24) : Prop := ∃ k, ∀ i, e.getLsbD i = true → k ≤ i ∧ i < k + 8

/-- The state after `raise IllegalCommand()` (R95): ERR and ERR_INDEX, nothing else. -/
def illegalEnd (s : State) : State :=
  { s with status := { s.status with err := .illegal, errIndex := 0 } }

/-- `STATUS` after a success: COUNT kept (R200). -/
def okStatus (s : State) : Status := { s.status with err := .none, errIndex := 0 }

/-- The frame of R130. -/
def wireFrame (op16 : Half) (ps : List Half) : List Byte :=
  [hiByte op16, loByte op16] ++
    ps.flatMap fun p => [hiByte p, loByte p, checksum (hiByte p) (loByte p)]

/-- Group `i` of RXBUF is valid (R141, R143). -/
def GroupValid (s : State) (i : Nat) : Prop :=
  readSlot s.mem.rxbuf (3 * i + 2) =
    checksum (readSlot s.mem.rxbuf (3 * i)) (readSlot s.mem.rxbuf (3 * i + 1))

/-- The fields R161 makes signed, under `CTRL`. -/
def SignedField (ctrl : BitVec 4) (f : FieldId) : Prop :=
  f = .flow ∨ f = .pmTemp ∨ f = .calOffset ∨
  (f = .pm1 ∧ ctrl.getLsbD 0 = true) ∨ (f = .pm25 ∧ ctrl.getLsbD 1 = true) ∨
  (f = .pm4 ∧ ctrl.getLsbD 2 = true) ∨ (f = .pm10 ∧ ctrl.getLsbD 3 = true)

/-- Column "source transform" of R160, on the exact value of the payload. -/
def sourceTransform : FieldId → ℚ → ℚ
  | .flow, x => x / 1200
  | .flowTemp, x => x / 200
  | .co2, x => x
  | .co2Temp, x => -45 + 175 * x / 65536
  | .co2Rh, x => 100 * x / 65536
  | .pm1, x => x / 10
  | .pm25, x => x / 10
  | .pm4, x => x / 10
  | .pm10, x => x / 10
  | .voc, x => x / 10
  | .nox, x => x / 10
  | .pmTemp, x => x / 200
  | .pmRh, x => x / 100
  | .calOffset, x => x / 200
  | .calSlope, x => x / 10000
  | .calTc, x => x

/-- Column `d_f` of R160. -/
def sourceDen : FieldId → Nat
  | .flow => 1200
  | .flowTemp => 200
  | .co2 => 1
  | .co2Temp => 65536
  | .co2Rh => 65536
  | .pm1 => 10
  | .pm25 => 10
  | .pm4 => 10
  | .pm10 => 10
  | .voc => 10
  | .nox => 10
  | .pmTemp => 200
  | .pmRh => 100
  | .calOffset => 200
  | .calSlope => 10000
  | .calTc => 1

/-- An offset is mapped, as R61 and R62 say it. -/
def Mapped (c : Config) (a : Nat) : Prop :=
  a % 4 = 0 ∧
    (a < 0x28 ∨ (∃ i, i < c.rxCap ∧ a = 0x400 + 4 * i) ∨ (∃ i, i < c.maxWords ∧ a = 0x800 + 4 * i) ∨
      (∃ j, j < c.maxParams ∧ a = 0xC00 + 4 * j) ∨ (∃ k, k < c.txCap ∧ a = 0x1000 + 4 * k))

/-- The accesses that R65, R66 and R67 refuse. -/
def RefusedAccess (c : Config) : HostAccess → Prop
  | .read width off => width ≠ .w32 ∨ off.toNat % 4 ≠ 0 ∨ ¬ Mapped c off.toNat
  | .write width lanes off v =>
    width ≠ .w32 ∨ lanes ≠ 0xF#4 ∨ off.toNat % 4 ≠ 0 ∨ ¬ Mapped c off.toNat ∨
      (off.toNat = 0x01C ∧ c.rxCap < v.toNat)

/-- The response of HostAccessError: a read returns 0x00000000 (R65, R66, R67). -/
def errorResponse : HostAccess → PortResponse
  | .read _ _ => .readError 0
  | .write _ _ _ _ => .writeError

/-- The locations R64 makes read-only, by offset. -/
def ReadOnlyOffset (a : Nat) : Prop :=
  a = 0x000 ∨ a = 0x00C ∨ a = 0x010 ∨ a = 0x014 ∨ a = 0x018 ∨ a = 0x020 ∨ a = 0x024 ∨
    (0x800 ≤ a ∧ a < 0xC00) ∨ (0x1000 ≤ a ∧ a < 0x1400)

/-- Commands run one after another, each to completion (R13). -/
def runAll : List Instr → State → Result
  | [], s => .next s
  | i :: is, s =>
    match exec i s with
    | .next t => runAll is t
    | .fault r => .fault r
    | .refused r => .refused r

/-- What a command publishes (R6): its outcome, and the registers and slots it writes. -/
def published (i : Instr) (t : State) : List Nat :=
  [t.status.err.code.toNat, t.status.errIndex.toNat] ++
    match i with
    | .crcInit => [t.crc.toNat]
    | .crcByte _ => [t.crc.toNat]
    | .crcWord _ => [t.crc.toNat]
    | .frameEncode m _ =>
      t.txlen.toNat :: (List.range (2 + 3 * m.toNat)).map fun k => (readSlot t.mem.txbuf k).toNat
    | .checkWord _ _ => []
    | .frameDecode n =>
      t.status.count.toNat ::
        if t.status.err = .none then
          (List.range n.toNat).map fun j => (readSlot t.mem.payload j).toNat
        else []
    | .fieldDecode _ _ => [t.resultNum.toNat, t.resultDen.toNat]

/-- The two states agree on what commands read as operands (R6, R76): parameters, CTRL, RXLEN, RXBUF, PARAM. -/
def SameOperands (s u : State) : Prop :=
  s.cfg = u.cfg ∧ s.ctrl = u.ctrl ∧ s.rxlen = u.rxlen ∧ s.mem.rxbuf = u.mem.rxbuf ∧
    s.mem.param = u.mem.param

/-- An assembler line that is no bare `wr` (R98): its `CMD` writes come from mnemonic forms. -/
def MnemonicForm : AsmLine → Prop
  | .wr _ _ => False
  | _ => True

end Sys2Proof.Machine

open Sys2Proof Sys2Proof.Machine

/-! ### Encoding -/

/-- Decoding the word of a well-formed command gives the command back, with every operand at every value (R90, R92, R93, R94). -/
def Obligations.DecodeOfEncodeIsIdentity : Prop :=
  ∀ (c : Config) (i : Instr), i.wf c = true → decode c (encode i) = .legal i

/-- A word that decodes to a command is that command's word, and the command is well-formed: each legal word has one meaning and each command one word (R94). -/
def Obligations.EncodeOfDecodeIsIdentity : Prop :=
  ∀ (c : Config) (w : Word) (i : Instr), decode c w = .legal i → encode i = w ∧ i.wf c = true

/-- R92's match/mask form: a word decodes to a row's command exactly when the row selects it. -/
def Obligations.RowSelectedByMatchAndMask : Prop :=
  ∀ (c : Config) (w : Word) (r : OpcodeRow), r ∈ opcodeRows →
    ((∃ i, decode c w = .legal i ∧ i.mnemonic = r.mnemonic) ↔
      (w &&& r.mask = r.pattern ∧ (r.mnemonic = "FRAME_ENCODE" → aNumber w ≤ c.maxParams)))

/-- R202: the causes of IllegalCommand, exhaustively; opcode 0x05 has none. -/
def Obligations.IllegalCausesExhaustive : Prop :=
  ∀ (c : Config) (w : Word),
    ((∃ why, decode c w = .illegal why) ↔ IllegalCause c w) ∧
    (opNumber w = 0x05 → ∃ i, decode c w = .legal i)

/-- R94: the operands a legal word decodes to, as numbers. -/
def Obligations.DecodedOperandsAreFields : Prop :=
  ∀ (c : Config) (w : Word) (i : Instr), decode c w = .legal i →
    match i with
    | .crcInit => w = 0x01000000#32
    | .crcByte b => opNumber w = 2 ∧ b.toNat = bNumber w
    | .crcWord p => opNumber w = 3 ∧ p.toNat = bNumber w
    | .frameEncode m op16 => opNumber w = 4 ∧ m.toNat = aNumber w ∧ op16.toNat = bNumber w
    | .checkWord k p => opNumber w = 5 ∧ k.toNat = aNumber w ∧ p.toNat = bNumber w
    | .frameDecode n => opNumber w = 6 ∧ n.toNat = aNumber w
    | .fieldDecode f raw => opNumber w = 7 ∧ f.code.toNat = aNumber w ∧ raw.toNat = bNumber w

/-- Words written out from the encodings of R112 to R114, R131, R140, R145, R163 decode to what they stand for. -/
def Obligations.WrittenOutWordsDecode : Prop :=
  decode Config.default 0x01000000#32 = .legal .crcInit ∧
  decode Config.default 0x020000BE#32 = .legal (.crcByte 0xBE#8) ∧
  decode Config.default 0x0300BEEF#32 = .legal (.crcWord 0xBEEF#16) ∧
  decode Config.default 0x04013608#32 = .legal (.frameEncode 1#8 0x3608#16) ∧
  decode Config.default 0x0592BEEF#32 = .legal (.checkWord 0x92#8 0xBEEF#16) ∧
  decode Config.default 0x06030000#32 = .legal (.frameDecode 3#8) ∧
  decode Config.default 0x070DFF9C#32 = .legal (.fieldDecode .calOffset 0xFF9C#16)

/-! ### The checksum -/

/-- R110 and R111: `crc8_byte` is the shift-and-XOR procedure on numbers, and `checksum` feeds the two bytes in wire order from 0xFF. -/
def Obligations.CrcFollowsPseudocode : Prop :=
  (∀ c b : Byte, (crc8Byte c b).toNat = crcByteNumber c.toNat b.toNat) ∧
  (∀ b0 b1 : Byte,
    (checksum b0 b1).toNat = crcByteNumber (crcByteNumber 0xFF b0.toNat) b1.toNat ^^^ 0x00) ∧
  (∀ p : Half,
    (checksumHalf p).toNat =
      crcByteNumber (crcByteNumber 0xFF (p.toNat / 2 ^ 8)) (p.toNat % 2 ^ 8))

/-- R116: the printed table is `T[v] = crc8_byte(0x00, v)`, `crc8_byte(c, b) = T[c ^ b]` and `checksum(b0, b1) = T[T[0xFF ^ b0] ^ b1]`. -/
def Obligations.TableFormAgrees : Prop :=
  crcTable.length = 256 ∧
  (∀ v : Byte, crcTable.getD v.toNat 0 = crc8Byte 0x00 v) ∧
  (∀ c b : Byte, crc8Byte c b = crcTable.getD (c ^^^ b).toNat 0) ∧
  (∀ b0 b1 : Byte,
    checksum b0 b1 = crcTable.getD (crcTable.getD (0xFF#8 ^^^ b0).toNat 0 ^^^ b1).toNat 0)

/-- R118: `crc8_byte(c, ·)` and `checksum` in each byte are bijections, and every byte value is the checksum of exactly 256 payloads. -/
def Obligations.CrcIsBijective : Prop :=
  (∀ c : Byte, Function.Bijective fun b : Byte => crc8Byte c b) ∧
  (∀ b0 : Byte, Function.Bijective fun b1 : Byte => checksum b0 b1) ∧
  (∀ b1 : Byte, Function.Bijective fun b0 : Byte => checksum b0 b1) ∧
  (∀ v : Byte,
    ((Finset.univ : Finset (Fin (2 ^ 16))).filter
      fun p => checksumHalf (BitVec.ofFin p) = v).card = 256)

/-- R119: affinity of the checksum over payloads. -/
def Obligations.ChecksumIsAffine : Prop :=
  (∀ x y : Half, checksumHalf (x ^^^ y) = checksumHalf x ^^^ checksumHalf y ^^^ 0x81#8) ∧
  checksumHalf 0x0000#16 = 0x81#8

/-- R120: flipping 1 to 3 bits of a valid DataWord, or any bits within 8 consecutive positions, always fails the check; some larger pattern passes. -/
def Obligations.SmallErrorsAreDetected : Prop :=
  (∀ w e : BitVec 24, dataWordOk w = true → e ≠ 0 → (flipCount e ≤ 3 ∨ inBurst e) →
    dataWordOk (w ^^^ e) = false) ∧
  ∃ w e : BitVec 24, dataWordOk w = true ∧ e ≠ 0 ∧ dataWordOk (w ^^^ e) = true

/-- R115: `CRC_INIT; CRC_BYTE b0; CRC_BYTE b1` leaves in CRC what `CRC_WORD (b0 ++ b1)` leaves there, `checksum(b0, b1)`. -/
def Obligations.StreamingEqualsWordForm : Prop :=
  ∀ (s u : State) (b0 b1 : Byte),
    ∃ t v, runAll [.crcInit, .crcByte b0, .crcByte b1] s = .next t ∧
      exec (.crcWord (joinBytes b0 b1)) u = .next v ∧
      t.crc = checksum b0 b1 ∧ v.crc = checksum b0 b1

/-- R117: after `CRC_INIT; CRC_BYTE b0; CRC_BYTE b1; CRC_BYTE c`, CRC is 0x00 exactly when `c = checksum(b0, b1)`. -/
def Obligations.ResidueIsZeroExactlyOnMatch : Prop :=
  ∀ (s : State) (b0 b1 k : Byte),
    ∃ t, runAll [.crcInit, .crcByte b0, .crcByte b1, .crcByte k] s = .next t ∧
      (t.crc = 0x00#8 ↔ k = checksum b0 b1)

/-! ### What each command does -/

/-- R112: CRC_INIT's word, its effect, and the other words of its opcode. -/
def Obligations.CrcInitEffect : Prop :=
  (∀ s : State, exec .crcInit s = .next { s with crc := 0xFF#8, status := okStatus s }) ∧
  (∀ (c : Config) (w : Word), decode c w = .legal .crcInit ↔ w = 0x01000000#32) ∧
  (∀ (s : State) (w : Word), opNumber w = 1 → aNumber w ≠ 0 ∨ bNumber w ≠ 0 →
    runCommand w s = .next (illegalEnd s))

/-- R113: CRC_BYTE's words, its effect, its corner cases, and the other words of its opcode. -/
def Obligations.CrcByteEffect : Prop :=
  (∀ (s : State) (b : Byte),
    exec (.crcByte b) s = .next { s with crc := crc8Byte s.crc b, status := okStatus s }) ∧
  (∀ (c : Config) (w : Word) (b : Byte),
    decode c w = .legal (.crcByte b) ↔ w.toNat = 0x02000000 + b.toNat) ∧
  (∀ (s : State) (w : Word), opNumber w = 2 → aNumber w ≠ 0 ∨ bNumber w / 2 ^ 8 ≠ 0 →
    runCommand w s = .next (illegalEnd s)) ∧
  crc8Byte 0xFF#8 0x00#8 = 0xAC#8 ∧ (∀ c : Byte, crc8Byte c c = 0x00#8)

/-- R114: CRC_WORD's words, its effect (the earlier CRC is not read), and the other words of its opcode. -/
def Obligations.CrcWordEffect : Prop :=
  (∀ (s : State) (p : Half),
    exec (.crcWord p) s =
      .next { s with crc := checksum (hiByte p) (loByte p), status := okStatus s }) ∧
  (∀ (c : Config) (w : Word) (p : Half),
    decode c w = .legal (.crcWord p) ↔ w.toNat = 0x03000000 + p.toNat) ∧
  (∀ (s : State) (w : Word), opNumber w = 3 → aNumber w ≠ 0 →
    runCommand w s = .next (illegalEnd s)) ∧
  checksumHalf 0x0000#16 = 0x81#8 ∧ checksumHalf 0xFFFF#16 = 0xAC#8 ∧
  checksumHalf 0xBEEF#16 = 0x92#8

/-- R130, R131: FRAME_ENCODE puts the frame of R130 into TXBUF, sets TXLEN and changes nothing else; TXBUF slots at `2+3m` and above keep their contents. -/
def Obligations.FrameEncodeBuildsFrame : Prop :=
  ∀ (s : State) (m : Byte) (op16 : Half), s.Inv → m.toNat ≤ s.cfg.maxParams →
    ∃ len : Byte, len.toNat = 2 + 3 * m.toNat ∧
      exec (.frameEncode m op16) s =
        .next { s with
          txlen := len
          status := okStatus s
          mem := { s.mem with
            txbuf := wireFrame op16 (s.mem.param.take m.toNat) ++
              s.mem.txbuf.drop (2 + 3 * m.toNat) } }

/-- R131, R95: a `CMD` write of a FRAME_ENCODE word with `m > MAX_PARAMS` is IllegalCommand: TXBUF, TXLEN and all else unchanged. -/
def Obligations.FrameEncodeCountAboveLimit : Prop :=
  ∀ (s : State) (w : Word), opNumber w = 4 → s.cfg.maxParams < aNumber w →
    runCommand w s = .next (illegalEnd s)

/-- R140: CHECK_WORD compares all 8 bits, writes STATUS.ERR and STATUS.ERR_INDEX only; every A and B is legal, and one `c` passes for each `p`. -/
def Obligations.CheckWordEffect : Prop :=
  (∀ (s : State) (p : Half),
    exec (.checkWord (checksum (hiByte p) (loByte p)) p) s = .next { s with status := okStatus s }) ∧
  (∀ (s : State) (k : Byte) (p : Half), k ≠ checksum (hiByte p) (loByte p) →
    exec (.checkWord k p) s =
      .next { s with status := { s.status with err := .checksum, errIndex := 0 } }) ∧
  (∀ (c : Config) (w : Word) (k : Byte) (p : Half),
    decode c w = .legal (.checkWord k p) ↔ w.toNat = 0x05000000 + k.toNat * 2 ^ 16 + p.toNat) ∧
  (∀ p : Half, ∃! k : Byte, k = checksum (hiByte p) (loByte p)) ∧
  (∀ k : Byte, k = checksum 0x00#8 0x00#8 ↔ k = 0x81#8)

/-- R142: `RXLEN != 3n` is LengthError, before any checksum is examined: COUNT 0, ERR 2, ERR_INDEX 0, nothing else; RXBUF plays no part. -/
def Obligations.FrameDecodeLengthError : Prop :=
  ∀ (s : State) (n : Byte), s.rxlen.toNat ≠ 3 * n.toNat →
    exec (.frameDecode n) s =
      .next { s with status := { err := .length, errIndex := 0, count := 0 } }

/-- R143: the first failing group, in ascending order, is the one reported, 0-based; COUNT 0 and PAYLOAD unchanged. -/
def Obligations.FrameDecodeFirstBadGroup : Prop :=
  ∀ (s : State) (n : Byte) (i : Nat), s.rxlen.toNat = 3 * n.toNat → i < n.toNat →
    (∀ j, j < i → GroupValid s j) → ¬ GroupValid s i →
    ∃ index : Byte, index.toNat = i ∧
      exec (.frameDecode n) s =
        .next { s with status := { err := .checksum, errIndex := index, count := 0 } }

/-- R144, R145: a frame of the right length with every group valid is published: PAYLOAD[0..n-1] in order, COUNT n, and nothing else changes. -/
def Obligations.FrameDecodePublishes : Prop :=
  ∀ (s : State) (n : Byte), s.Inv → s.rxlen.toNat = 3 * n.toNat →
    (∀ i, i < n.toNat → GroupValid s i) →
    ∃ pay : List Half, pay.length = s.cfg.maxWords ∧
      (∀ i, i < n.toNat → (readSlot pay i).toNat =
        (readSlot s.mem.rxbuf (3 * i)).toNat * 2 ^ 8 + (readSlot s.mem.rxbuf (3 * i + 1)).toNat) ∧
      (∀ i, n.toNat ≤ i → readSlot pay i = readSlot s.mem.payload i) ∧
      exec (.frameDecode n) s =
        .next { s with
          status := { err := .none, errIndex := 0, count := n }
          mem := { s.mem with payload := pay } }

/-- R145, corner cases: `n > MAX_WORDS` is always LengthError, and so is an RXLEN that is not a multiple of 3, for every `n`. -/
def Obligations.ImpossibleLengthsAreLengthErrors : Prop :=
  ∀ (s : State) (n : Byte), s.Inv → s.cfg.maxWords < n.toNat ∨ s.rxlen.toNat % 3 ≠ 0 →
    ∃ t, exec (.frameDecode n) s = .next t ∧ t.status.err = .length ∧ t.status.count = 0 ∧
      t.mem = s.mem

/-- R145, corner case, and R146: changing exactly one byte of a valid frame, in group `k`, makes FRAME_DECODE fail with index `k`, COUNT 0, PAYLOAD unchanged. -/
def Obligations.OneChangedByteIsReported : Prop :=
  ∀ (s : State) (n : Byte) (k r : Nat) (v : Byte), s.Inv → s.rxlen.toNat = 3 * n.toNat →
    (∀ i, i < n.toNat → GroupValid s i) → k < n.toNat → r < 3 →
    v ≠ readSlot s.mem.rxbuf (3 * k + r) →
    ∃ t, exec (.frameDecode n) (s.setRxbuf (writeSlot s.mem.rxbuf (3 * k + r) v)) = .next t ∧
      t.status.err = .checksum ∧ t.status.errIndex.toNat = k ∧ t.status.count = 0 ∧
      t.mem.payload = s.mem.payload

/-- R163: FIELD_DECODE completes on every field and payload, writes RESULT_NUM, RESULT_DEN, STATUS.ERR and STATUS.ERR_INDEX, and nothing else. -/
def Obligations.FieldDecodeCompletes : Prop :=
  ∀ (s : State) (f : FieldId) (raw : Half),
    ∃ num den : Word, den.toNat = sourceDen f ∧ den ∈ resultDens ∧
      exec (.fieldDecode f raw) s =
        .next { s with resultNum := num, resultDen := den, status := okStatus s }

/-- R160 to R162, R164: `sint32(RESULT_NUM) / RESULT_DEN` is exactly the source's transform of the payload, signed fields converted first, and RESULT_NUM does not overflow. -/
def Obligations.FieldDecodeIsExact : Prop :=
  ∀ (s t : State) (f : FieldId) (raw : Half), exec (.fieldDecode f raw) s = .next t →
    ∃ x : Int,
      (SignedField s.ctrl f → 2 ^ 15 ≤ raw.toNat → x = (raw.toNat : Int) - 2 ^ 16) ∧
      (SignedField s.ctrl f → raw.toNat < 2 ^ 15 → x = (raw.toNat : Int)) ∧
      (¬ SignedField s.ctrl f → x = (raw.toNat : Int)) ∧
      (sint32 t.resultNum : ℚ) / (t.resultDen.toNat : ℚ) = sourceTransform f (x : ℚ) ∧
      -2949120 ≤ sint32 t.resultNum ∧ sint32 t.resultNum ≤ 8519505

/-! ### What commands leave unchanged -/

/-- The commands that store to no buffer (R112, R113, R114, R140, R163): every buffer slot reads as before, every register but those each rule names, COUNT, and what is outside the registers. -/
def Obligations.RegisterCommandsFrame : Prop :=
  ∀ (i : Instr) (s t : State), exec i s = .next t →
    (i = .crcInit ∨ (∃ b, i = .crcByte b) ∨ (∃ p, i = .crcWord p) ∨ (∃ k p, i = .checkWord k p) ∨
      (∃ f raw, i = .fieldDecode f raw)) →
    (∀ a : Offset, a.toNat ≠ 0x00C →
      (a.toNat = 0x010 → ∃ k p f raw, i = .checkWord k p ∨ i = .fieldDecode f raw) →
      (a.toNat = 0x014 ∨ a.toNat = 0x018 → ∀ f raw, i ≠ .fieldDecode f raw) →
      t.readAt a = s.readAt a) ∧
    t.status.count = s.status.count ∧ t.mem = s.mem ∧ t.cfg = s.cfg ∧ t.resets = s.resets ∧
      t.port = s.port ∧ t.resp = s.resp

/-- FRAME_ENCODE (R131): every offset reads as before but TXBUF[0..2+3m-1], TXLEN and STATUS; STATUS.COUNT is kept. -/
def Obligations.FrameEncodeFrame : Prop :=
  ∀ (m : Byte) (op16 : Half) (s t : State), exec (.frameEncode m op16) s = .next t →
    (∀ a : Offset, a.toNat ≠ 0x00C → a.toNat ≠ 0x020 →
      (∀ k, k < 2 + 3 * m.toNat → a.toNat ≠ 0x1000 + 4 * k) → t.readAt a = s.readAt a) ∧
    t.status.count = s.status.count ∧ t.cfg = s.cfg ∧ t.resets = s.resets ∧ t.port = s.port ∧
      t.resp = s.resp

/-- FRAME_DECODE (R145): every offset reads as before but STATUS and, on success only, PAYLOAD[0..n-1]. -/
def Obligations.FrameDecodeFrame : Prop :=
  ∀ (n : Byte) (s t : State), exec (.frameDecode n) s = .next t →
    (∀ a : Offset, a.toNat ≠ 0x00C →
      (t.status.err = .none → ∀ k, k < n.toNat → a.toNat ≠ 0x800 + 4 * k) →
      t.readAt a = s.readAt a) ∧
    t.cfg = s.cfg ∧ t.resets = s.resets ∧ t.port = s.port ∧ t.resp = s.resp

/-- R76: no command writes RXBUF, PARAM, RXLEN or CTRL. -/
def Obligations.CommandsKeepOperands : Prop :=
  ∀ (w : Word) (s t : State), runCommand w s = .next t → SameOperands s t

/-- R203: a command that fails changes STATUS only, COUNT going to 0 exactly for the LengthError and ChecksumError of FRAME_DECODE. -/
def Obligations.FailedCommandIsPrecise : Prop :=
  ∀ (w : Word) (s t : State), runCommand w s = .next t → t.status.err ≠ .none →
    t = { s with status := t.status } ∧
    (t.status.err ≠ .checksum → t.status.errIndex = 0) ∧
    ((∃ n, decode s.cfg w = .legal (.frameDecode n)) → t.status.count = 0) ∧
    ((∀ n, decode s.cfg w ≠ .legal (.frameDecode n)) → t.status.count = s.status.count)

/-- R26: only a `CMD` write of CRC_INIT, CRC_BYTE or CRC_WORD, or reset, changes CRC. -/
def Obligations.OnlyCrcCommandsWriteCrc : Prop :=
  ∀ s t : State, step s = .next t → t.crc ≠ s.crc →
    ∃ e rest, s.port = e :: rest ∧
      (e = .reset ∨ (∃ w, e = .resetDuring w) ∨
        ∃ w, e = .access (cmdWrite w) ∧
          (decode s.cfg w = .legal .crcInit ∨ (∃ b, decode s.cfg w = .legal (.crcByte b)) ∨
            ∃ p, decode s.cfg w = .legal (.crcWord p)))

/-- R6: but for CRC_BYTE, what a command publishes depends only on the command and on the operands it reads, never on an earlier command. -/
def Obligations.PublishedResultsArePure : Prop :=
  ∀ (i : Instr) (s u t v : State), (∀ b, i ≠ .crcByte b) → i.wf s.cfg = true → s.Inv → u.Inv →
    SameOperands s u → exec i s = .next t → exec i u = .next v → published i t = published i v

/-- R132: parameters encoded by FRAME_ENCODE, copied from TXBUF (without the CommandWord) into RXBUF, are what FRAME_DECODE recovers. -/
def Obligations.EncodedFrameDecodesBack : Prop :=
  ∀ (s t u : State) (m : Byte) (op16 : Half), s.Inv → 1 ≤ m.toNat → m.toNat ≤ s.cfg.maxParams →
    m.toNat ≤ s.cfg.maxWords → exec (.frameEncode m op16) s = .next t →
    u.Inv → u.cfg = s.cfg → u.rxlen.toNat = 3 * m.toNat →
    (∀ k, k < 3 * m.toNat → readSlot u.mem.rxbuf k = readSlot t.mem.txbuf (2 + k)) →
    ∃ v, exec (.frameDecode m) u = .next v ∧ v.status.err = .none ∧ v.status.errIndex = 0 ∧
      v.status.count = m ∧
      ∀ j, j < m.toNat → readSlot v.mem.payload j = readSlot s.mem.param j

/-! ### The host port -/

/-- A step with a `CMD` write pending whose word decodes to a command is `exec` of that command, on the state with the write taken from the port, and then the write's completion. -/
def Obligations.StepRunsDecodedCommand : Prop :=
  ∀ (s : State) (w : Word) (i : Instr) (rest : List HostEvent),
    s.port = .access (.write .w32 0xF#4 0x008#13 w) :: rest → decode s.cfg w = .legal i →
    step s =
      match exec i { s with port := rest } with
      | .next t => .next { t with resp := some .writeOk }
      | .fault r => .fault r
      | .refused r => .refused r

/-- R95: a `CMD` write of an ILLEGAL word is accepted on the port and ends with ERR 3, ERR_INDEX 0, and no other register or buffer changed. -/
def Obligations.IllegalWordOnThePort : Prop :=
  ∀ (s : State) (w : Word) (rest : List HostEvent),
    s.port = .access (.write .w32 0xF#4 0x008#13 w) :: rest → IllegalCause s.cfg w →
    step s =
      .next { s with
        status := { s.status with err := .illegal, errIndex := 0 }
        port := rest
        resp := some .writeOk }

/-- R62, R65, R66, R67: exactly the accesses those rules name complete with HostAccessError; such an access changes no state and a read returns 0. -/
def Obligations.RefusedAccessesChangeNothing : Prop :=
  ∀ (s : State) (a : HostAccess) (rest : List HostEvent), s.cfg.legal = true →
    s.port = .access a :: rest →
    (RefusedAccess s.cfg a →
      step s = .next { s with port := rest, resp := some (errorResponse a) }) ∧
    (¬ RefusedAccess s.cfg a →
      ∃ t, step s = .next t ∧ (t.resp = some .writeOk ∨ ∃ v, t.resp = some (.readOk v)))

/-- The register reads of R21 to R30, bit by bit as numbers: a read returns the register's used bits and changes no register or buffer. -/
def Obligations.RegisterReads : Prop :=
  ∀ (s : State) (a : Offset) (rest : List HostEvent), s.cfg.legal = true → a.toNat % 4 = 0 →
    a.toNat < 0x28 → s.port = .access (.read .w32 a) :: rest →
    ∃ v : Word, step s = .next { s with port := rest, resp := some (.readOk v) } ∧
      (a.toNat = 0x000 → v = 0x43524338#32) ∧
      (a.toNat = 0x004 → v.toNat = s.ctrl.toNat) ∧
      (a.toNat = 0x008 → v = 0) ∧
      (a.toNat = 0x00C → v.toNat =
        s.status.count.toNat * 2 ^ 16 + s.status.errIndex.toNat * 2 ^ 8 +
          match s.status.err with
          | .none => 0
          | .checksum => 1
          | .length => 2
          | .illegal => 3) ∧
      (a.toNat = 0x010 → v.toNat = s.crc.toNat) ∧
      (a.toNat = 0x014 → v = s.resultNum) ∧
      (a.toNat = 0x018 → v = s.resultDen) ∧
      (a.toNat = 0x01C → v.toNat = s.rxlen.toNat) ∧
      (a.toNat = 0x020 → v.toNat = s.txlen.toNat) ∧
      (a.toNat = 0x024 → v.toNat = s.cfg.maxParams * 2 ^ 8 + s.cfg.maxWords)

/-- The buffer reads of R31 to R34: slot `i` of each buffer at its offset of R61, reserved bits 0, no side effect. -/
def Obligations.BufferReads : Prop :=
  ∀ (s : State) (a : Offset) (rest : List HostEvent) (i : Nat), s.cfg.legal = true →
    s.port = .access (.read .w32 a) :: rest →
    (i < s.cfg.rxCap → a.toNat = 0x400 + 4 * i →
      ∃ v : Word, v.toNat = (readSlot s.mem.rxbuf i).toNat ∧
        step s = .next { s with port := rest, resp := some (.readOk v) }) ∧
    (i < s.cfg.maxWords → a.toNat = 0x800 + 4 * i →
      ∃ v : Word, v.toNat = (readSlot s.mem.payload i).toNat ∧
        step s = .next { s with port := rest, resp := some (.readOk v) }) ∧
    (i < s.cfg.maxParams → a.toNat = 0xC00 + 4 * i →
      ∃ v : Word, v.toNat = (readSlot s.mem.param i).toNat ∧
        step s = .next { s with port := rest, resp := some (.readOk v) }) ∧
    (i < s.cfg.txCap → a.toNat = 0x1000 + 4 * i →
      ∃ v : Word, v.toNat = (readSlot s.mem.txbuf i).toNat ∧
        step s = .next { s with port := rest, resp := some (.readOk v) })

/-- R64: a legal write to CTRL, RXLEN, RXBUF[i] or PARAM[j] stores the used bits of the value there, changes no other location, and leaves what is outside the registers as a completed write does. -/
def Obligations.WritesStoreUsedBits : Prop :=
  ∀ (s : State) (a : Offset) (v : Word) (rest : List HostEvent), s.Inv → a.toNat ≠ 0x008 →
    ¬ ReadOnlyOffset a.toNat → ¬ RefusedAccess s.cfg (.write .w32 0xF#4 a v) →
    s.port = .access (.write .w32 0xF#4 a v) :: rest →
    ∃ t, step s = .next t ∧ t.port = rest ∧ t.resp = some .writeOk ∧ t.cfg = s.cfg ∧
      t.resets = s.resets ∧
      (a.toNat = 0x004 → t.ctrl.toNat = v.toNat % 2 ^ 4) ∧
      (a.toNat = 0x01C → t.rxlen.toNat = v.toNat) ∧
      (∀ i, a.toNat = 0x400 + 4 * i → i < 256 →
        (readSlot t.mem.rxbuf i).toNat = v.toNat % 2 ^ 8) ∧
      (∀ j, a.toNat = 0xC00 + 4 * j → (readSlot t.mem.param j).toNat = v.toNat % 2 ^ 16) ∧
      ∀ a' : Offset, a' ≠ a → t.readAt a' = s.readAt a'

/-- R70: a write to a mapped read-only location completes without HostAccessError and changes no register or buffer. -/
def Obligations.ReadOnlyWritesAreIgnored : Prop :=
  ∀ (s : State) (a : Offset) (v : Word) (rest : List HostEvent), s.cfg.legal = true →
    Mapped s.cfg a.toNat → ReadOnlyOffset a.toNat →
    s.port = .access (.write .w32 0xF#4 a v) :: rest →
    step s = .next { s with port := rest, resp := some .writeOk }

/-- R69: a read of any kind changes no register or buffer, a write to a location other than CMD, done twice, leaves what one leaves, and a CRC_BYTE written twice advances CRC again. -/
def Obligations.ReadsAndRepeatedWritesAreIdempotent : Prop :=
  (∃ (b : Byte) (s t v : State), runAll [.crcByte b] s = .next t ∧
    runAll [.crcByte b, .crcByte b] s = .next v ∧ t.crc ≠ v.crc) ∧
  (∀ (s : State) (width : Width) (a : Offset) (rest : List HostEvent),
    s.port = .access (.read width a) :: rest →
    ∃ r, step s = .next { s with port := rest, resp := some r }) ∧
  (∀ (s : State) (width : Width) (lanes : BitVec 4) (a : Offset) (v : Word) (rest : List HostEvent),
    a.toNat ≠ 0x008 →
    s.port = .access (.write width lanes a v) :: .access (.write width lanes a v) :: rest →
    ∃ t, runSteps 1 s = .next t ∧
      runSteps 2 s = .next { t with port := rest })

/-- R73: an access sees what completed before it and nothing of what comes after: a step's effect does not depend on the events behind the one it performs, and leaves them in place. -/
def Obligations.LaterEventsHaveNoInfluence : Prop :=
  ∀ (s t : State) (e : HostEvent) (rest : List HostEvent),
    step { s with port := [e] } = .next t →
    step { s with port := e :: rest } = .next { t with port := rest }

/-- R240, R209: every step completes: no command, access or failure ever stops the block. -/
def Obligations.EveryStepCompletes : Prop := ∀ s : State, ∃ t, step s = .next t

/-- R216, R233: with no event pending the block executes nothing and keeps all state (the model's form of idling, log 3). -/
def Obligations.IdleKeepsState : Prop := ∀ s : State, s.port = [] → step s = .next s

/-! ### Reset and the invariant -/

/-- R230: after reset every register reads as its reset value, for every legal choice of the parameters; the events still to come stay (log 7). -/
def Obligations.ResetRegisterValues : Prop :=
  ∀ (s : State) (rest : List HostEvent), s.port = .reset :: rest → s.cfg.legal = true →
    ∃ t, step s = .next t ∧ t.cfg = s.cfg ∧ t.port = rest ∧ t.mem.wf s.cfg = true ∧
      t.readAt 0x000#13 = some 0x43524338#32 ∧ t.readAt 0x004#13 = some 0 ∧
      t.readAt 0x00C#13 = some 0 ∧ t.readAt 0x010#13 = some 0xFF#32 ∧
      t.readAt 0x014#13 = some 0 ∧ t.readAt 0x018#13 = some 1 ∧ t.readAt 0x01C#13 = some 0 ∧
      t.readAt 0x020#13 = some 0 ∧
      ∃ caps : Word, t.readAt 0x024#13 = some caps ∧
        caps.toNat = s.cfg.maxParams * 2 ^ 8 + s.cfg.maxWords

/-- R232: a reset that arrives while a command runs leaves the reset state of R230, as a reset alone does, and its `CMD` write is not completed. Not the spec's but the model's choice: that both resets draw the same buffer contents, which R231 leaves open (DESIGN CHOICE, log 5), and the form of the event and its missing response (log 8). -/
def Obligations.ResetAbandonsCommand : Prop :=
  ∀ (s u : State) (w : Word) (rest : List HostEvent), s.port = .resetDuring w :: rest →
    u = { s with port := .reset :: rest } →
    ∃ t, step s = .next t ∧ step u = .next t ∧ t.resp = none

/-- R234: from the reset state every command of a well-formed term completes, and a CRC_BYTE chain gives what one started with CRC_INIT gives. -/
def Obligations.ByteChainAfterReset : Prop :=
  ∀ (c : Config) (k : Nat),
    (∀ i : Instr, ∃ t, exec i (State.atReset c k) = .next t) ∧
    ∀ bs : List Byte, ∃ t v,
      runAll (bs.map .crcByte) (State.atReset c k) = .next t ∧
      runAll (.crcInit :: bs.map .crcByte) (State.atReset c k) = .next v ∧
      t.crc = v.crc ∧ t.crc = bs.foldl crc8Byte 0xFF#8

/-- The reset state has the invariant, for every legal choice of the parameters and every draw. -/
def Obligations.ResetHasInvariant : Prop :=
  (∀ (c : Config) (k : Nat), c.legal = true → (State.atReset c k).Inv) ∧ State.reset.Inv

/-- Every step keeps the invariant: buffer shapes, RXLEN and TXLEN ranges, RESULT_DEN's values, RESULT_NUM's range, COUNT and ERR_INDEX (R25, R27 to R38, R164). -/
def Obligations.StepKeepsInvariant : Prop :=
  ∀ s t : State, s.Inv → step s = .next t → t.Inv

/-- From a state with the invariant, every run goes on for ever (R209, R240) and stays in the invariant (R25, R27 to R29, R38, R78, R164). -/
def Obligations.InvariantRunsAreSafe : Prop := ∀ s : State, s.Inv → Safe s

/-- R7, R30: no step changes the parameters, so CAPS never changes. -/
def Obligations.ParametersNeverChange : Prop :=
  ∀ s t : State, step s = .next t → t.cfg = s.cfg ∧ t.readAt 0x024#13 = s.readAt 0x024#13

/-! ### The assembler -/

/-- R98: no line but a bare `wr` ever writes an ILLEGAL word to CMD. -/
def Obligations.AssemblerNeverEmitsIllegalWords : Prop :=
  ∀ (c : Config) (l : AsmLine) (accesses : List HostAccess) (w : Word), MnemonicForm l →
    assemble c l = some accesses → cmdWrite w ∈ accesses → ∃ i, decode c w = .legal i

/-- R99: `rx.load` of a frame that fits RXBUF, run on the port, leaves its bytes in RXBUF[0..k-1] and `k` in RXLEN. -/
def Obligations.RxLoadFillsRxbuf : Prop :=
  ∀ (s : State) (bytes : List Byte) (rest : List HostEvent), s.Inv → bytes.length ≤ s.cfg.rxCap →
    ∃ accesses t, assemble s.cfg (.rxLoad (bytes.map BitVec.toNat)) = some accesses ∧
      accesses.length = bytes.length + 1 ∧
      runSteps accesses.length { s with port := accesses.map .access ++ rest } = .next t ∧
      t.rxlen.toNat = bytes.length ∧
      t.mem.rxbuf = bytes ++ s.mem.rxbuf.drop bytes.length ∧
      t = { s with
        rxlen := t.rxlen, mem := { s.mem with rxbuf := t.mem.rxbuf }, port := rest,
        resp := some .writeOk }
end

