-- ==== Sys2Proof/Laws/Crc.lean ====
section
/-! SUPPORT. The CRC step is linear over XOR, and the byte merge and split undo each other (40_checksum.md R110, R119; 00_scope.md R9). -/

namespace Sys2Proof.Machine

/-- The shift-and-XOR step is linear. -/
theorem crcShift_xor : ∀ x y : Byte, crcShift (x ^^^ y) = crcShift x ^^^ crcShift y := by
  intro x y
  have h : ∀ z : Byte, crcShift z = (z <<< 1) ^^^ (if z.getLsbD 7 then 0x31#8 else 0#8) := by
    intro z; unfold crcShift; split <;> simp
  have hs : (x ^^^ y) <<< 1 = (x <<< 1) ^^^ (y <<< 1) := by
    ext i hi; simp
    by_cases h0 : i = 0 <;> simp [h0]
  simp only [h, hs, BitVec.getLsbD_xor]
  cases x.getLsbD 7 <;> cases y.getLsbD 7 <;> simp
  · ac_rfl
  · ac_rfl
  · rw [show ∀ p q r : Byte, (p ^^^ r) ^^^ (q ^^^ r) = (p ^^^ q) ^^^ (r ^^^ r) by intros; ac_rfl]
    simp

theorem crcShifts_xor (n : Nat) (x y : Byte) :
    crcShifts n (x ^^^ y) = crcShifts n x ^^^ crcShifts n y := by
  induction n generalizing x y with
  | zero => rfl
  | succ n ih => rw [crcShifts, crcShift_xor, ih]; rfl

/-- `crc8_byte(c, b)` depends on `c ^ b` alone (R116). -/
theorem crc8Byte_eq (c b : Byte) : crc8Byte c b = crc8Byte 0#8 (c ^^^ b) := by
  simp [crc8Byte]

theorem crc8Byte_xor (c c' b b' : Byte) :
    crc8Byte (c ^^^ c') (b ^^^ b') = crc8Byte c b ^^^ crc8Byte c' b' := by
  have e : c ^^^ c' ^^^ (b ^^^ b') = (c ^^^ b) ^^^ (c' ^^^ b') := by ac_rfl
  rw [crc8Byte, e, crcShifts_xor]; rfl

theorem checksum_eq (b0 b1 : Byte) : checksum b0 b1 = crc8Byte (crc8Byte 0xFF#8 b0) b1 := by
  simp [checksum]

/-! ### Bytes of a word as numbers -/

theorem toNat_hiByte (p : Half) : (hiByte p).toNat = p.toNat / 2 ^ 8 := by
  have := p.isLt
  simp only [hiByte, BitVec.extractLsb'_toNat, Nat.shiftRight_eq_div_pow]
  omega

theorem toNat_loByte (p : Half) : (loByte p).toNat = p.toNat % 2 ^ 8 := by
  simp [loByte]

theorem toNat_joinBytes (hi lo : Byte) : (joinBytes hi lo).toNat = hi.toNat * 2 ^ 8 + lo.toNat := by
  have h : (joinBytes hi lo).toNat = hi.toNat <<< 8 ||| lo.toNat := BitVec.toNat_append hi lo
  rw [h, ← Nat.shiftLeft_add_eq_or_of_lt lo.isLt, Nat.shiftLeft_eq]

@[simp] theorem hiByte_joinBytes (hi lo : Byte) : hiByte (joinBytes hi lo) = hi := by
  apply BitVec.eq_of_toNat_eq
  rw [toNat_hiByte, toNat_joinBytes]
  have := lo.isLt
  omega

@[simp] theorem loByte_joinBytes (hi lo : Byte) : loByte (joinBytes hi lo) = lo := by
  apply BitVec.eq_of_toNat_eq
  rw [toNat_loByte, toNat_joinBytes]
  have := lo.isLt
  omega

@[simp] theorem joinBytes_hi_lo (p : Half) : joinBytes (hiByte p) (loByte p) = p := by
  apply BitVec.eq_of_toNat_eq
  rw [toNat_joinBytes, toNat_hiByte, toNat_loByte]
  omega

end Sys2Proof.Machine
end

