-- ==== Sys2Proof/Laws/Decode.lean ====
section
/-! SUPPORT. The fields of a word and of an encoded command as numbers (30_encoding.md R90, R92), and that field ids and names agree (R93). -/

namespace Sys2Proof

theorem toNat_append_add {m n : Nat} (x : BitVec m) (y : BitVec n) :
    (x ++ y).toNat = x.toNat * 2 ^ n + y.toNat := by
  rw [BitVec.toNat_append, ← Nat.shiftLeft_add_eq_or_of_lt y.isLt, Nat.shiftLeft_eq]

/-! ### Fields of a word -/

theorem toNat_opField (w : Word) : (opField w).toNat = w.toNat / 2 ^ 24 := by
  have := w.isLt
  simp only [opField, BitVec.extractLsb'_toNat, Nat.shiftRight_eq_div_pow]
  omega

theorem toNat_aField (w : Word) : (aField w).toNat = w.toNat / 2 ^ 16 % 2 ^ 8 := by
  simp only [aField, BitVec.extractLsb'_toNat, Nat.shiftRight_eq_div_pow]

theorem toNat_bField (w : Word) : (bField w).toNat = w.toNat % 2 ^ 16 := by
  simp [bField]

/-- A word is its three fields. -/
theorem toNat_eq_fields (w : Word) :
    w.toNat = (opField w).toNat * 2 ^ 24 + (aField w).toNat * 2 ^ 16 + (bField w).toNat := by
  rw [toNat_opField, toNat_aField, toNat_bField]; omega

theorem toNat_bField_hi (w : Word) :
    ((bField w).extractLsb' 8 8).toNat = w.toNat % 2 ^ 16 / 2 ^ 8 := by
  rw [BitVec.extractLsb'_toNat, toNat_bField, Nat.shiftRight_eq_div_pow]; omega

theorem toNat_bField_lo (w : Word) :
    ((bField w).extractLsb' 0 8).toNat = w.toNat % 2 ^ 8 := by
  rw [BitVec.extractLsb'_toNat, toNat_bField, Nat.shiftRight_eq_div_pow]; omega

theorem toNat_aField_hi (w : Word) :
    ((aField w).extractLsb' 4 4).toNat = w.toNat / 2 ^ 16 % 2 ^ 8 / 2 ^ 4 := by
  rw [BitVec.extractLsb'_toNat, toNat_aField, Nat.shiftRight_eq_div_pow]; omega

theorem toNat_aField_lo (w : Word) :
    ((aField w).extractLsb' 0 4).toNat = w.toNat / 2 ^ 16 % 2 ^ 4 := by
  rw [BitVec.extractLsb'_toNat, toNat_aField, Nat.shiftRight_eq_div_pow]; omega

/-! ### Field ids -/

@[simp] theorem FieldId.ofCode_code (f : FieldId) : FieldId.ofCode f.code = f := by
  cases f <;> rfl

theorem FieldId.code_ofCode : ∀ v : BitVec 4, (FieldId.ofCode v).code = v := by
  decide

/-! ### Words of commands -/

theorem toNat_encode_crcInit : (encode .crcInit).toNat = 0x01000000 := rfl

theorem toNat_encode_crcByte (b : Byte) : (encode (.crcByte b)).toNat = 0x02000000 + b.toNat := by
  have h : (encode (.crcByte b)).toNat = (0x02#8 ++ 0#8 ++ 0#8).toNat * 2 ^ 8 + b.toNat :=
    toNat_append_add _ _
  rw [h]; rfl

theorem toNat_encode_crcWord (p : Half) : (encode (.crcWord p)).toNat = 0x03000000 + p.toNat := by
  have h : (encode (.crcWord p)).toNat = (0x03#8 ++ 0#8).toNat * 2 ^ 16 + p.toNat :=
    toNat_append_add _ _
  rw [h]; rfl

theorem toNat_op_a_b (op a : Byte) (b : Half) :
    (op ++ a ++ b).toNat = op.toNat * 2 ^ 24 + a.toNat * 2 ^ 16 + b.toNat := by
  rw [toNat_append_add, toNat_append_add]; omega

theorem toNat_encode_frameEncode (m : Byte) (op16 : Half) :
    (encode (.frameEncode m op16)).toNat = 0x04000000 + m.toNat * 2 ^ 16 + op16.toNat :=
  toNat_op_a_b 0x04#8 m op16

theorem toNat_encode_checkWord (c : Byte) (p : Half) :
    (encode (.checkWord c p)).toNat = 0x05000000 + c.toNat * 2 ^ 16 + p.toNat :=
  toNat_op_a_b 0x05#8 c p

theorem toNat_encode_frameDecode (n : Byte) :
    (encode (.frameDecode n)).toNat = 0x06000000 + n.toNat * 2 ^ 16 :=
  toNat_op_a_b 0x06#8 n 0#16

theorem toNat_encode_fieldDecode (f : FieldId) (raw : Half) :
    (encode (.fieldDecode f raw)).toNat = 0x07000000 + f.code.toNat * 2 ^ 16 + raw.toNat := by
  have h : (encode (.fieldDecode f raw)).toNat =
      (0x07#8 ++ 0#4 ++ f.code).toNat * 2 ^ 16 + raw.toNat := toNat_append_add _ _
  have h' : (0x07#8 ++ 0#4 ++ f.code).toNat = (0x07#8 ++ 0#4).toNat * 2 ^ 4 + f.code.toNat :=
    toNat_append_add _ _
  have h'' : (0x07#8 ++ 0#4).toNat = 0x70 := rfl
  omega

end Sys2Proof
end

