-- ==== Sys2Proof/Laws/State.lean ====
section
/-! SUPPORT. What each state update does to each field: one equation per field per update, each true by unfolding, so that no later proof unfolds a record update. -/

namespace Sys2Proof.Machine

variable (s : State)

/-! ### setCtrl -/

@[simp] theorem State.setCtrl_ctrl (v : BitVec 4) : (s.setCtrl v).ctrl = v := rfl
@[simp] theorem State.setCtrl_status (v : BitVec 4) : (s.setCtrl v).status = s.status := rfl
@[simp] theorem State.setCtrl_crc (v : BitVec 4) : (s.setCtrl v).crc = s.crc := rfl
@[simp] theorem State.setCtrl_resultNum (v : BitVec 4) : (s.setCtrl v).resultNum = s.resultNum := rfl
@[simp] theorem State.setCtrl_resultDen (v : BitVec 4) : (s.setCtrl v).resultDen = s.resultDen := rfl
@[simp] theorem State.setCtrl_rxlen (v : BitVec 4) : (s.setCtrl v).rxlen = s.rxlen := rfl
@[simp] theorem State.setCtrl_txlen (v : BitVec 4) : (s.setCtrl v).txlen = s.txlen := rfl
@[simp] theorem State.setCtrl_mem (v : BitVec 4) : (s.setCtrl v).mem = s.mem := rfl
@[simp] theorem State.setCtrl_cfg (v : BitVec 4) : (s.setCtrl v).cfg = s.cfg := rfl
@[simp] theorem State.setCtrl_resets (v : BitVec 4) : (s.setCtrl v).resets = s.resets := rfl
@[simp] theorem State.setCtrl_port (v : BitVec 4) : (s.setCtrl v).port = s.port := rfl
@[simp] theorem State.setCtrl_resp (v : BitVec 4) : (s.setCtrl v).resp = s.resp := rfl

/-! ### setStatus -/

@[simp] theorem State.setStatus_ctrl (v : Status) : (s.setStatus v).ctrl = s.ctrl := rfl
@[simp] theorem State.setStatus_status (v : Status) : (s.setStatus v).status = v := rfl
@[simp] theorem State.setStatus_crc (v : Status) : (s.setStatus v).crc = s.crc := rfl
@[simp] theorem State.setStatus_resultNum (v : Status) : (s.setStatus v).resultNum = s.resultNum := rfl
@[simp] theorem State.setStatus_resultDen (v : Status) : (s.setStatus v).resultDen = s.resultDen := rfl
@[simp] theorem State.setStatus_rxlen (v : Status) : (s.setStatus v).rxlen = s.rxlen := rfl
@[simp] theorem State.setStatus_txlen (v : Status) : (s.setStatus v).txlen = s.txlen := rfl
@[simp] theorem State.setStatus_mem (v : Status) : (s.setStatus v).mem = s.mem := rfl
@[simp] theorem State.setStatus_cfg (v : Status) : (s.setStatus v).cfg = s.cfg := rfl
@[simp] theorem State.setStatus_resets (v : Status) : (s.setStatus v).resets = s.resets := rfl
@[simp] theorem State.setStatus_port (v : Status) : (s.setStatus v).port = s.port := rfl
@[simp] theorem State.setStatus_resp (v : Status) : (s.setStatus v).resp = s.resp := rfl

/-! ### setCrc -/

@[simp] theorem State.setCrc_ctrl (v : Byte) : (s.setCrc v).ctrl = s.ctrl := rfl
@[simp] theorem State.setCrc_status (v : Byte) : (s.setCrc v).status = s.status := rfl
@[simp] theorem State.setCrc_crc (v : Byte) : (s.setCrc v).crc = v := rfl
@[simp] theorem State.setCrc_resultNum (v : Byte) : (s.setCrc v).resultNum = s.resultNum := rfl
@[simp] theorem State.setCrc_resultDen (v : Byte) : (s.setCrc v).resultDen = s.resultDen := rfl
@[simp] theorem State.setCrc_rxlen (v : Byte) : (s.setCrc v).rxlen = s.rxlen := rfl
@[simp] theorem State.setCrc_txlen (v : Byte) : (s.setCrc v).txlen = s.txlen := rfl
@[simp] theorem State.setCrc_mem (v : Byte) : (s.setCrc v).mem = s.mem := rfl
@[simp] theorem State.setCrc_cfg (v : Byte) : (s.setCrc v).cfg = s.cfg := rfl
@[simp] theorem State.setCrc_resets (v : Byte) : (s.setCrc v).resets = s.resets := rfl
@[simp] theorem State.setCrc_port (v : Byte) : (s.setCrc v).port = s.port := rfl
@[simp] theorem State.setCrc_resp (v : Byte) : (s.setCrc v).resp = s.resp := rfl

/-! ### setResult -/

@[simp] theorem State.setResult_ctrl (num den : Word) : (s.setResult num den).ctrl = s.ctrl := rfl
@[simp] theorem State.setResult_status (num den : Word) : (s.setResult num den).status = s.status := rfl
@[simp] theorem State.setResult_crc (num den : Word) : (s.setResult num den).crc = s.crc := rfl
@[simp] theorem State.setResult_resultNum (num den : Word) : (s.setResult num den).resultNum = num := rfl
@[simp] theorem State.setResult_resultDen (num den : Word) : (s.setResult num den).resultDen = den := rfl
@[simp] theorem State.setResult_rxlen (num den : Word) : (s.setResult num den).rxlen = s.rxlen := rfl
@[simp] theorem State.setResult_txlen (num den : Word) : (s.setResult num den).txlen = s.txlen := rfl
@[simp] theorem State.setResult_mem (num den : Word) : (s.setResult num den).mem = s.mem := rfl
@[simp] theorem State.setResult_cfg (num den : Word) : (s.setResult num den).cfg = s.cfg := rfl
@[simp] theorem State.setResult_resets (num den : Word) : (s.setResult num den).resets = s.resets := rfl
@[simp] theorem State.setResult_port (num den : Word) : (s.setResult num den).port = s.port := rfl
@[simp] theorem State.setResult_resp (num den : Word) : (s.setResult num den).resp = s.resp := rfl

/-! ### setRxlen -/

@[simp] theorem State.setRxlen_ctrl (v : Byte) : (s.setRxlen v).ctrl = s.ctrl := rfl
@[simp] theorem State.setRxlen_status (v : Byte) : (s.setRxlen v).status = s.status := rfl
@[simp] theorem State.setRxlen_crc (v : Byte) : (s.setRxlen v).crc = s.crc := rfl
@[simp] theorem State.setRxlen_resultNum (v : Byte) : (s.setRxlen v).resultNum = s.resultNum := rfl
@[simp] theorem State.setRxlen_resultDen (v : Byte) : (s.setRxlen v).resultDen = s.resultDen := rfl
@[simp] theorem State.setRxlen_rxlen (v : Byte) : (s.setRxlen v).rxlen = v := rfl
@[simp] theorem State.setRxlen_txlen (v : Byte) : (s.setRxlen v).txlen = s.txlen := rfl
@[simp] theorem State.setRxlen_mem (v : Byte) : (s.setRxlen v).mem = s.mem := rfl
@[simp] theorem State.setRxlen_cfg (v : Byte) : (s.setRxlen v).cfg = s.cfg := rfl
@[simp] theorem State.setRxlen_resets (v : Byte) : (s.setRxlen v).resets = s.resets := rfl
@[simp] theorem State.setRxlen_port (v : Byte) : (s.setRxlen v).port = s.port := rfl
@[simp] theorem State.setRxlen_resp (v : Byte) : (s.setRxlen v).resp = s.resp := rfl

/-! ### setTxlen -/

@[simp] theorem State.setTxlen_ctrl (v : Byte) : (s.setTxlen v).ctrl = s.ctrl := rfl
@[simp] theorem State.setTxlen_status (v : Byte) : (s.setTxlen v).status = s.status := rfl
@[simp] theorem State.setTxlen_crc (v : Byte) : (s.setTxlen v).crc = s.crc := rfl
@[simp] theorem State.setTxlen_resultNum (v : Byte) : (s.setTxlen v).resultNum = s.resultNum := rfl
@[simp] theorem State.setTxlen_resultDen (v : Byte) : (s.setTxlen v).resultDen = s.resultDen := rfl
@[simp] theorem State.setTxlen_rxlen (v : Byte) : (s.setTxlen v).rxlen = s.rxlen := rfl
@[simp] theorem State.setTxlen_txlen (v : Byte) : (s.setTxlen v).txlen = v := rfl
@[simp] theorem State.setTxlen_mem (v : Byte) : (s.setTxlen v).mem = s.mem := rfl
@[simp] theorem State.setTxlen_cfg (v : Byte) : (s.setTxlen v).cfg = s.cfg := rfl
@[simp] theorem State.setTxlen_resets (v : Byte) : (s.setTxlen v).resets = s.resets := rfl
@[simp] theorem State.setTxlen_port (v : Byte) : (s.setTxlen v).port = s.port := rfl
@[simp] theorem State.setTxlen_resp (v : Byte) : (s.setTxlen v).resp = s.resp := rfl

/-! ### setRxbuf -/

@[simp] theorem State.setRxbuf_ctrl (v : List Byte) : (s.setRxbuf v).ctrl = s.ctrl := rfl
@[simp] theorem State.setRxbuf_status (v : List Byte) : (s.setRxbuf v).status = s.status := rfl
@[simp] theorem State.setRxbuf_crc (v : List Byte) : (s.setRxbuf v).crc = s.crc := rfl
@[simp] theorem State.setRxbuf_resultNum (v : List Byte) : (s.setRxbuf v).resultNum = s.resultNum := rfl
@[simp] theorem State.setRxbuf_resultDen (v : List Byte) : (s.setRxbuf v).resultDen = s.resultDen := rfl
@[simp] theorem State.setRxbuf_rxlen (v : List Byte) : (s.setRxbuf v).rxlen = s.rxlen := rfl
@[simp] theorem State.setRxbuf_txlen (v : List Byte) : (s.setRxbuf v).txlen = s.txlen := rfl
@[simp] theorem State.setRxbuf_mem (v : List Byte) : (s.setRxbuf v).mem = { s.mem with rxbuf := v } := rfl
@[simp] theorem State.setRxbuf_cfg (v : List Byte) : (s.setRxbuf v).cfg = s.cfg := rfl
@[simp] theorem State.setRxbuf_resets (v : List Byte) : (s.setRxbuf v).resets = s.resets := rfl
@[simp] theorem State.setRxbuf_port (v : List Byte) : (s.setRxbuf v).port = s.port := rfl
@[simp] theorem State.setRxbuf_resp (v : List Byte) : (s.setRxbuf v).resp = s.resp := rfl

/-! ### setPayload -/

@[simp] theorem State.setPayload_ctrl (v : List Half) : (s.setPayload v).ctrl = s.ctrl := rfl
@[simp] theorem State.setPayload_status (v : List Half) : (s.setPayload v).status = s.status := rfl
@[simp] theorem State.setPayload_crc (v : List Half) : (s.setPayload v).crc = s.crc := rfl
@[simp] theorem State.setPayload_resultNum (v : List Half) : (s.setPayload v).resultNum = s.resultNum := rfl
@[simp] theorem State.setPayload_resultDen (v : List Half) : (s.setPayload v).resultDen = s.resultDen := rfl
@[simp] theorem State.setPayload_rxlen (v : List Half) : (s.setPayload v).rxlen = s.rxlen := rfl
@[simp] theorem State.setPayload_txlen (v : List Half) : (s.setPayload v).txlen = s.txlen := rfl
@[simp] theorem State.setPayload_mem (v : List Half) : (s.setPayload v).mem = { s.mem with payload := v } := rfl
@[simp] theorem State.setPayload_cfg (v : List Half) : (s.setPayload v).cfg = s.cfg := rfl
@[simp] theorem State.setPayload_resets (v : List Half) : (s.setPayload v).resets = s.resets := rfl
@[simp] theorem State.setPayload_port (v : List Half) : (s.setPayload v).port = s.port := rfl
@[simp] theorem State.setPayload_resp (v : List Half) : (s.setPayload v).resp = s.resp := rfl

/-! ### setParam -/

@[simp] theorem State.setParam_ctrl (v : List Half) : (s.setParam v).ctrl = s.ctrl := rfl
@[simp] theorem State.setParam_status (v : List Half) : (s.setParam v).status = s.status := rfl
@[simp] theorem State.setParam_crc (v : List Half) : (s.setParam v).crc = s.crc := rfl
@[simp] theorem State.setParam_resultNum (v : List Half) : (s.setParam v).resultNum = s.resultNum := rfl
@[simp] theorem State.setParam_resultDen (v : List Half) : (s.setParam v).resultDen = s.resultDen := rfl
@[simp] theorem State.setParam_rxlen (v : List Half) : (s.setParam v).rxlen = s.rxlen := rfl
@[simp] theorem State.setParam_txlen (v : List Half) : (s.setParam v).txlen = s.txlen := rfl
@[simp] theorem State.setParam_mem (v : List Half) : (s.setParam v).mem = { s.mem with param := v } := rfl
@[simp] theorem State.setParam_cfg (v : List Half) : (s.setParam v).cfg = s.cfg := rfl
@[simp] theorem State.setParam_resets (v : List Half) : (s.setParam v).resets = s.resets := rfl
@[simp] theorem State.setParam_port (v : List Half) : (s.setParam v).port = s.port := rfl
@[simp] theorem State.setParam_resp (v : List Half) : (s.setParam v).resp = s.resp := rfl

/-! ### setTxbuf -/

@[simp] theorem State.setTxbuf_ctrl (v : List Byte) : (s.setTxbuf v).ctrl = s.ctrl := rfl
@[simp] theorem State.setTxbuf_status (v : List Byte) : (s.setTxbuf v).status = s.status := rfl
@[simp] theorem State.setTxbuf_crc (v : List Byte) : (s.setTxbuf v).crc = s.crc := rfl
@[simp] theorem State.setTxbuf_resultNum (v : List Byte) : (s.setTxbuf v).resultNum = s.resultNum := rfl
@[simp] theorem State.setTxbuf_resultDen (v : List Byte) : (s.setTxbuf v).resultDen = s.resultDen := rfl
@[simp] theorem State.setTxbuf_rxlen (v : List Byte) : (s.setTxbuf v).rxlen = s.rxlen := rfl
@[simp] theorem State.setTxbuf_txlen (v : List Byte) : (s.setTxbuf v).txlen = s.txlen := rfl
@[simp] theorem State.setTxbuf_mem (v : List Byte) : (s.setTxbuf v).mem = { s.mem with txbuf := v } := rfl
@[simp] theorem State.setTxbuf_cfg (v : List Byte) : (s.setTxbuf v).cfg = s.cfg := rfl
@[simp] theorem State.setTxbuf_resets (v : List Byte) : (s.setTxbuf v).resets = s.resets := rfl
@[simp] theorem State.setTxbuf_port (v : List Byte) : (s.setTxbuf v).port = s.port := rfl
@[simp] theorem State.setTxbuf_resp (v : List Byte) : (s.setTxbuf v).resp = s.resp := rfl

/-! ### setPort -/

@[simp] theorem State.setPort_ctrl (v : List HostEvent) : (s.setPort v).ctrl = s.ctrl := rfl
@[simp] theorem State.setPort_status (v : List HostEvent) : (s.setPort v).status = s.status := rfl
@[simp] theorem State.setPort_crc (v : List HostEvent) : (s.setPort v).crc = s.crc := rfl
@[simp] theorem State.setPort_resultNum (v : List HostEvent) : (s.setPort v).resultNum = s.resultNum := rfl
@[simp] theorem State.setPort_resultDen (v : List HostEvent) : (s.setPort v).resultDen = s.resultDen := rfl
@[simp] theorem State.setPort_rxlen (v : List HostEvent) : (s.setPort v).rxlen = s.rxlen := rfl
@[simp] theorem State.setPort_txlen (v : List HostEvent) : (s.setPort v).txlen = s.txlen := rfl
@[simp] theorem State.setPort_mem (v : List HostEvent) : (s.setPort v).mem = s.mem := rfl
@[simp] theorem State.setPort_cfg (v : List HostEvent) : (s.setPort v).cfg = s.cfg := rfl
@[simp] theorem State.setPort_resets (v : List HostEvent) : (s.setPort v).resets = s.resets := rfl
@[simp] theorem State.setPort_port (v : List HostEvent) : (s.setPort v).port = v := rfl
@[simp] theorem State.setPort_resp (v : List HostEvent) : (s.setPort v).resp = s.resp := rfl

/-! ### respond -/

@[simp] theorem State.respond_ctrl (v : PortResponse) : (s.respond v).ctrl = s.ctrl := rfl
@[simp] theorem State.respond_status (v : PortResponse) : (s.respond v).status = s.status := rfl
@[simp] theorem State.respond_crc (v : PortResponse) : (s.respond v).crc = s.crc := rfl
@[simp] theorem State.respond_resultNum (v : PortResponse) : (s.respond v).resultNum = s.resultNum := rfl
@[simp] theorem State.respond_resultDen (v : PortResponse) : (s.respond v).resultDen = s.resultDen := rfl
@[simp] theorem State.respond_rxlen (v : PortResponse) : (s.respond v).rxlen = s.rxlen := rfl
@[simp] theorem State.respond_txlen (v : PortResponse) : (s.respond v).txlen = s.txlen := rfl
@[simp] theorem State.respond_mem (v : PortResponse) : (s.respond v).mem = s.mem := rfl
@[simp] theorem State.respond_cfg (v : PortResponse) : (s.respond v).cfg = s.cfg := rfl
@[simp] theorem State.respond_resets (v : PortResponse) : (s.respond v).resets = s.resets := rfl
@[simp] theorem State.respond_port (v : PortResponse) : (s.respond v).port = s.port := rfl
@[simp] theorem State.respond_resp (v : PortResponse) : (s.respond v).resp = some v := rfl

/-! ### setCount -/

@[simp] theorem State.setCount_ctrl (v : Byte) : (s.setCount v).ctrl = s.ctrl := rfl
@[simp] theorem State.setCount_status (v : Byte) : (s.setCount v).status = { s.status with count := v } := rfl
@[simp] theorem State.setCount_crc (v : Byte) : (s.setCount v).crc = s.crc := rfl
@[simp] theorem State.setCount_resultNum (v : Byte) : (s.setCount v).resultNum = s.resultNum := rfl
@[simp] theorem State.setCount_resultDen (v : Byte) : (s.setCount v).resultDen = s.resultDen := rfl
@[simp] theorem State.setCount_rxlen (v : Byte) : (s.setCount v).rxlen = s.rxlen := rfl
@[simp] theorem State.setCount_txlen (v : Byte) : (s.setCount v).txlen = s.txlen := rfl
@[simp] theorem State.setCount_mem (v : Byte) : (s.setCount v).mem = s.mem := rfl
@[simp] theorem State.setCount_cfg (v : Byte) : (s.setCount v).cfg = s.cfg := rfl
@[simp] theorem State.setCount_resets (v : Byte) : (s.setCount v).resets = s.resets := rfl
@[simp] theorem State.setCount_port (v : Byte) : (s.setCount v).port = s.port := rfl
@[simp] theorem State.setCount_resp (v : Byte) : (s.setCount v).resp = s.resp := rfl

/-! ### raise -/

@[simp] theorem State.raise_ctrl (f : Failure) : (s.raise f).ctrl = s.ctrl := rfl
@[simp] theorem State.raise_status (f : Failure) : (s.raise f).status = s.status.raise f := rfl
@[simp] theorem State.raise_crc (f : Failure) : (s.raise f).crc = s.crc := rfl
@[simp] theorem State.raise_resultNum (f : Failure) : (s.raise f).resultNum = s.resultNum := rfl
@[simp] theorem State.raise_resultDen (f : Failure) : (s.raise f).resultDen = s.resultDen := rfl
@[simp] theorem State.raise_rxlen (f : Failure) : (s.raise f).rxlen = s.rxlen := rfl
@[simp] theorem State.raise_txlen (f : Failure) : (s.raise f).txlen = s.txlen := rfl
@[simp] theorem State.raise_mem (f : Failure) : (s.raise f).mem = s.mem := rfl
@[simp] theorem State.raise_cfg (f : Failure) : (s.raise f).cfg = s.cfg := rfl
@[simp] theorem State.raise_resets (f : Failure) : (s.raise f).resets = s.resets := rfl
@[simp] theorem State.raise_port (f : Failure) : (s.raise f).port = s.port := rfl
@[simp] theorem State.raise_resp (f : Failure) : (s.raise f).resp = s.resp := rfl

/-! ### succeed -/

@[simp] theorem State.succeed_ctrl : (s.succeed).ctrl = s.ctrl := rfl
@[simp] theorem State.succeed_status : (s.succeed).status = s.status.succeed := rfl
@[simp] theorem State.succeed_crc : (s.succeed).crc = s.crc := rfl
@[simp] theorem State.succeed_resultNum : (s.succeed).resultNum = s.resultNum := rfl
@[simp] theorem State.succeed_resultDen : (s.succeed).resultDen = s.resultDen := rfl
@[simp] theorem State.succeed_rxlen : (s.succeed).rxlen = s.rxlen := rfl
@[simp] theorem State.succeed_txlen : (s.succeed).txlen = s.txlen := rfl
@[simp] theorem State.succeed_mem : (s.succeed).mem = s.mem := rfl
@[simp] theorem State.succeed_cfg : (s.succeed).cfg = s.cfg := rfl
@[simp] theorem State.succeed_resets : (s.succeed).resets = s.resets := rfl
@[simp] theorem State.succeed_port : (s.succeed).port = s.port := rfl
@[simp] theorem State.succeed_resp : (s.succeed).resp = s.resp := rfl

/-! ### STATUS -/

@[simp] theorem Status.raise_err (f : Failure) (st : Status) : (st.raise f).err = f.kind := rfl
@[simp] theorem Status.raise_errIndex (f : Failure) (st : Status) : (st.raise f).errIndex = f.index := rfl
@[simp] theorem Status.raise_count (f : Failure) (st : Status) : (st.raise f).count = st.count := rfl
@[simp] theorem Status.succeed_err (st : Status) : st.succeed.err = .none := rfl
@[simp] theorem Status.succeed_errIndex (st : Status) : st.succeed.errIndex = 0 := rfl
@[simp] theorem Status.succeed_count (st : Status) : st.succeed.count = st.count := rfl

@[simp] theorem Failure.kind_checksum (i : Nat) : (Failure.checksumError i).kind = .checksum := rfl
@[simp] theorem Failure.kind_length : Failure.lengthError.kind = .length := rfl
@[simp] theorem Failure.kind_illegal : Failure.illegalCommand.kind = .illegal := rfl
@[simp] theorem Failure.index_checksum (i : Nat) : (Failure.checksumError i).index = BitVec.ofNat 8 i := rfl
@[simp] theorem Failure.index_length : Failure.lengthError.index = 0 := rfl
@[simp] theorem Failure.index_illegal : Failure.illegalCommand.index = 0 := rfl

/-! ### The reset state -/

@[simp] theorem State.atReset_cfg (c : Config) (k : Nat) : (State.atReset c k).cfg = c := rfl
@[simp] theorem State.atReset_crc (c : Config) (k : Nat) : (State.atReset c k).crc = 0xFF := rfl
@[simp] theorem State.atReset_port (c : Config) (k : Nat) : (State.atReset c k).port = [] := rfl
@[simp] theorem State.atReset_resp (c : Config) (k : Nat) : (State.atReset c k).resp = none := rfl
@[simp] theorem State.atReset_resets (c : Config) (k : Nat) : (State.atReset c k).resets = k + 1 := rfl
@[simp] theorem State.resetNow_cfg : s.resetNow.cfg = s.cfg := rfl
@[simp] theorem State.resetNow_port : s.resetNow.port = s.port := rfl
@[simp] theorem State.resetNow_resp : s.resetNow.resp = none := rfl
@[simp] theorem State.resetNow_resets : s.resetNow.resets = s.resets + 1 := rfl

end Sys2Proof.Machine
end

