-- ==== Sys2Proof/Laws/Memory.lean ====
section
/-! SUPPORT. The buffers: read after write, and that every memory operation keeps the canonical form `Memory.wf` (10_state.md R38), which the reset state has. -/

namespace Sys2Proof.Machine

/-! ### One slot -/

theorem readSlot_eq_getElem {w : Nat} (buf : List (BitVec w)) (i : Nat) (h : i < buf.length) :
    readSlot buf i = buf[i] := by
  simp [readSlot, h]

theorem readSlot_of_length_le {w : Nat} (buf : List (BitVec w)) (i : Nat) (h : buf.length ≤ i) :
    readSlot buf i = 0 := by
  simp [readSlot, h]

@[simp] theorem length_writeSlot {w : Nat} (buf : List (BitVec w)) (i : Nat) (v : BitVec w) :
    (writeSlot buf i v).length = buf.length := by
  simp [writeSlot]

/-- A read after a write to the same mapped slot gives the value written. -/
theorem readSlot_writeSlot_self {w : Nat} (buf : List (BitVec w)) (i : Nat) (v : BitVec w)
    (h : i < buf.length) : readSlot (writeSlot buf i v) i = v := by
  simp [readSlot, writeSlot, h]

/-- A write leaves every other slot alone. -/
theorem readSlot_writeSlot_ne {w : Nat} (buf : List (BitVec w)) {i j : Nat} (v : BitVec w)
    (h : j ≠ i) : readSlot (writeSlot buf i v) j = readSlot buf j := by
  simp [readSlot, writeSlot, List.getElem?_set_ne (Ne.symm h)]

/-- Writing the same value twice is writing it once. -/
@[simp] theorem writeSlot_writeSlot {w : Nat} (buf : List (BitVec w)) (i : Nat) (v : BitVec w) :
    writeSlot (writeSlot buf i v) i v = writeSlot buf i v := by
  simp [writeSlot]

/-- Two arrays of one length with equal slots are equal data. -/
theorem buffer_ext {w : Nat} {x y : List (BitVec w)} (hl : x.length = y.length)
    (h : ∀ i, i < x.length → readSlot x i = readSlot y i) : x = y := by
  refine List.ext_getElem hl fun i hx hy => ?_
  rw [← readSlot_eq_getElem x i hx, ← readSlot_eq_getElem y i hy]
  exact h i hx

/-! ### The loops keep the length -/

@[simp] theorem length_encodeWords (param : List Half) (m : Nat) (tx : List Byte) :
    (encodeWords param m tx).length = tx.length := by
  induction m with
  | zero => rfl
  | succ j ih => simp [encodeWords, ih]

@[simp] theorem length_encodeFrame (param : List Half) (m : Nat) (op16 : Half) (tx : List Byte) :
    (encodeFrame param m op16 tx).length = tx.length := by
  simp [encodeFrame]

@[simp] theorem length_publish (rx : List Byte) (n : Nat) (pay : List Half) :
    (publish rx n pay).length = pay.length := by
  induction n with
  | zero => rfl
  | succ i ih => simp [publish, ih]

/-! ### The canonical form -/

theorem Memory.wf_iff (c : Config) (m : Memory) :
    m.wf c = true ↔
      m.rxbuf.length = c.rxCap ∧ m.payload.length = c.maxWords ∧
        m.param.length = c.maxParams ∧ m.txbuf.length = c.txCap := by
  simp [Memory.wf, and_assoc]

theorem Memory.wf_rxbuf_slot {c : Config} {m : Memory} (h : m.wf c = true) (i : Nat) (v : Byte) :
    ({ m with rxbuf := writeSlot m.rxbuf i v } : Memory).wf c = true := by
  simpa [Memory.wf_iff] using (Memory.wf_iff c m).1 h

theorem Memory.wf_param_slot {c : Config} {m : Memory} (h : m.wf c = true) (j : Nat) (v : Half) :
    ({ m with param := writeSlot m.param j v } : Memory).wf c = true := by
  simpa [Memory.wf_iff] using (Memory.wf_iff c m).1 h

theorem Memory.wf_encodeFrame {c : Config} {m : Memory} (h : m.wf c = true) (k : Nat) (op16 : Half) :
    ({ m with txbuf := encodeFrame m.param k op16 m.txbuf } : Memory).wf c = true := by
  simpa [Memory.wf_iff] using (Memory.wf_iff c m).1 h

theorem Memory.wf_publish {c : Config} {m : Memory} (h : m.wf c = true) (n : Nat) :
    ({ m with payload := publish m.rxbuf n m.payload } : Memory).wf c = true := by
  simpa [Memory.wf_iff] using (Memory.wf_iff c m).1 h

/-- The buffers have their canonical form after every reset, whatever is drawn. -/
theorem State.atReset_mem_wf (c : Config) (k : Nat) : (State.atReset c k).mem.wf c = true := by
  simp [Memory.wf_iff, State.atReset]

theorem State.reset_mem_wf : State.reset.mem.wf State.reset.cfg = true :=
  State.atReset_mem_wf Config.default 0

end Sys2Proof.Machine
end

