-- ==== Sys2Proof/Laws/Frames.lean ====
section
/-! SUPPORT. What the loops of FRAME_ENCODE (41_command_encoder.md R131) and FRAME_DECODE (42_response_decoder.md R143 to R145) compute, slot by slot. -/

namespace Sys2Proof.Machine

/-! ### The search for the first failing group -/

theorem firstBadGroup_eq_none_iff (rx : List Byte) (k i : Nat) :
    firstBadGroup rx k i = none ↔ ∀ j, i ≤ j → j < i + k → groupOk rx j = true := by
  induction k generalizing i with
  | zero => simp [firstBadGroup]; omega
  | succ k ih =>
    rw [firstBadGroup]
    split
    · next h =>
      rw [ih]
      refine ⟨fun H j h1 h2 => ?_, fun H j h1 h2 => H j (by omega) (by omega)⟩
      by_cases hj : j = i
      · exact hj ▸ h
      · exact H j (by omega) (by omega)
    · next h => exact iff_of_false (by simp) fun H => h (H i (by omega) (by omega))

theorem firstBadGroup_eq_some_iff (rx : List Byte) (k i b : Nat) :
    firstBadGroup rx k i = some b ↔
      i ≤ b ∧ b < i + k ∧ groupOk rx b = false ∧ ∀ j, i ≤ j → j < b → groupOk rx j = true := by
  induction k generalizing i with
  | zero => simp [firstBadGroup]; omega
  | succ k ih =>
    rw [firstBadGroup]
    split
    · next h =>
      rw [ih]
      constructor
      · rintro ⟨h1, h2, h3, h4⟩
        refine ⟨by omega, by omega, h3, fun j h5 h6 => ?_⟩
        by_cases hj : j = i
        · exact hj ▸ h
        · exact h4 j (by omega) h6
      · rintro ⟨h1, h2, h3, h4⟩
        have : b ≠ i := fun e => by simp [e, h] at h3
        exact ⟨by omega, by omega, h3, fun j h5 h6 => h4 j (by omega) h6⟩
    · next h =>
      constructor
      · intro e
        obtain rfl : i = b := by simpa using e
        exact ⟨le_rfl, by omega, by simpa using h, fun j h1 h2 => by omega⟩
      · rintro ⟨h1, h2, h3, h4⟩
        by_cases hb : b = i
        · simp [hb]
        · exact absurd (h4 i le_rfl (by omega)) h

theorem groupOk_iff (rx : List Byte) (i : Nat) :
    groupOk rx i = true ↔
      readSlot rx (3 * i + 2) = checksum (readSlot rx (3 * i)) (readSlot rx (3 * i + 1)) := by
  simp [groupOk]

/-! ### Publishing payloads -/

theorem readSlot_publish_lt (rx : List Byte) (n : Nat) (pay : List Half) (hn : n ≤ pay.length)
    (i : Nat) (hi : i < n) : readSlot (publish rx n pay) i = groupPayload rx i := by
  induction n with
  | zero => omega
  | succ n ih =>
    rw [publish]
    by_cases h : i = n
    · subst h; exact readSlot_writeSlot_self _ _ _ (by simp; omega)
    · rw [readSlot_writeSlot_ne _ _ h]; exact ih (by omega) (by omega)

theorem readSlot_publish_ge (rx : List Byte) (n : Nat) (pay : List Half) (i : Nat) (hi : n ≤ i) :
    readSlot (publish rx n pay) i = readSlot pay i := by
  induction n with
  | zero => rfl
  | succ n ih =>
    rw [publish, readSlot_writeSlot_ne _ _ (by omega)]
    exact ih (by omega)

/-! ### Building the frame -/

theorem readSlot_encodeWords_ge (param : List Half) (m : Nat) (tx : List Byte) (k : Nat)
    (hk : 2 + 3 * m ≤ k) : readSlot (encodeWords param m tx) k = readSlot tx k := by
  induction m with
  | zero => rfl
  | succ m ih =>
    rw [encodeWords, readSlot_writeSlot_ne _ _ (by omega), readSlot_writeSlot_ne _ _ (by omega),
      readSlot_writeSlot_ne _ _ (by omega)]
    exact ih (by omega)

theorem readSlot_encodeWords_head (param : List Half) (m : Nat) (tx : List Byte) (k : Nat)
    (hk : k < 2) : readSlot (encodeWords param m tx) k = readSlot tx k := by
  induction m with
  | zero => rfl
  | succ m ih =>
    rw [encodeWords, readSlot_writeSlot_ne _ _ (by omega), readSlot_writeSlot_ne _ _ (by omega),
      readSlot_writeSlot_ne _ _ (by omega)]
    exact ih

/-- The triplet of parameter word `j` (R130). -/
theorem readSlot_encodeWords_triplet (param : List Half) (m : Nat) (tx : List Byte)
    (hm : 2 + 3 * m ≤ tx.length) (j : Nat) (hj : j < m) :
    readSlot (encodeWords param m tx) (2 + 3 * j) = hiByte (readSlot param j) ∧
    readSlot (encodeWords param m tx) (3 + 3 * j) = loByte (readSlot param j) ∧
    readSlot (encodeWords param m tx) (4 + 3 * j) =
      checksum (hiByte (readSlot param j)) (loByte (readSlot param j)) := by
  induction m with
  | zero => omega
  | succ m ih =>
    by_cases h : j = m
    · subst h
      refine ⟨?_, ?_, ?_⟩
      · rw [encodeWords, readSlot_writeSlot_ne _ _ (by omega), readSlot_writeSlot_ne _ _ (by omega),
          readSlot_writeSlot_self _ _ _ (by simp; omega)]
      · rw [encodeWords, readSlot_writeSlot_ne _ _ (by omega),
          readSlot_writeSlot_self _ _ _ (by simp; omega)]
      · rw [encodeWords, readSlot_writeSlot_self _ _ _ (by simp; omega)]
    · obtain ⟨h1, h2, h3⟩ := ih (by omega) (by omega)
      refine ⟨?_, ?_, ?_⟩
      · rw [encodeWords, readSlot_writeSlot_ne _ _ (by omega), readSlot_writeSlot_ne _ _ (by omega),
          readSlot_writeSlot_ne _ _ (by omega), h1]
      · rw [encodeWords, readSlot_writeSlot_ne _ _ (by omega), readSlot_writeSlot_ne _ _ (by omega),
          readSlot_writeSlot_ne _ _ (by omega), h2]
      · rw [encodeWords, readSlot_writeSlot_ne _ _ (by omega), readSlot_writeSlot_ne _ _ (by omega),
          readSlot_writeSlot_ne _ _ (by omega), h3]

/-- The CommandWord's two bytes come first (R130). -/
theorem readSlot_encodeFrame_head (param : List Half) (m : Nat) (op16 : Half) (tx : List Byte)
    (h : 2 ≤ tx.length) :
    readSlot (encodeFrame param m op16 tx) 0 = hiByte op16 ∧
    readSlot (encodeFrame param m op16 tx) 1 = loByte op16 := by
  constructor
  · rw [encodeFrame, readSlot_encodeWords_head _ _ _ _ (by omega),
      readSlot_writeSlot_ne _ _ (by omega), readSlot_writeSlot_self _ _ _ (by omega)]
  · rw [encodeFrame, readSlot_encodeWords_head _ _ _ _ (by omega),
      readSlot_writeSlot_self _ _ _ (by simp; omega)]

theorem readSlot_encodeFrame_triplet (param : List Half) (m : Nat) (op16 : Half) (tx : List Byte)
    (hm : 2 + 3 * m ≤ tx.length) (j : Nat) (hj : j < m) :
    readSlot (encodeFrame param m op16 tx) (2 + 3 * j) = hiByte (readSlot param j) ∧
    readSlot (encodeFrame param m op16 tx) (3 + 3 * j) = loByte (readSlot param j) ∧
    readSlot (encodeFrame param m op16 tx) (4 + 3 * j) =
      checksum (hiByte (readSlot param j)) (loByte (readSlot param j)) :=
  readSlot_encodeWords_triplet _ _ _ (by simpa using hm) _ hj

/-- Slots from `2 + 3m` on keep their contents (R131). -/
theorem readSlot_encodeFrame_ge (param : List Half) (m : Nat) (op16 : Half) (tx : List Byte)
    (k : Nat) (hk : 2 + 3 * m ≤ k) :
    readSlot (encodeFrame param m op16 tx) k = readSlot tx k := by
  rw [encodeFrame, readSlot_encodeWords_ge _ _ _ _ hk, readSlot_writeSlot_ne _ _ (by omega),
    readSlot_writeSlot_ne _ _ (by omega)]

end Sys2Proof.Machine
end

