-- ==== Sys2Proof/Laws/Exec.lean ====
section
/-! SUPPORT. Say once what a command can do: the one next state each meaning gives, and what every command leaves alone. -/

namespace Sys2Proof.Machine

/-! ### One equation per meaning -/

theorem exec_crcInit (s : State) : exec .crcInit s = .next (s.setCrc 0xFF#8).succeed := rfl

theorem exec_crcByte (b : Byte) (s : State) :
    exec (.crcByte b) s = .next (s.setCrc (crc8Byte s.crc b)).succeed := rfl

theorem exec_crcWord (p : Half) (s : State) :
    exec (.crcWord p) s = .next (s.setCrc (checksum (hiByte p) (loByte p))).succeed := rfl

theorem exec_frameEncode {m : Byte} {s : State} (h : m.toNat ≤ s.cfg.maxParams) (op16 : Half) :
    exec (.frameEncode m op16) s =
      .next ((s.setTxbuf (encodeFrame s.mem.param m.toNat op16 s.mem.txbuf)).setTxlen
        (BitVec.ofNat 8 (2 + 3 * m.toNat))).succeed := by
  simp [exec, execFrameEncode, h]

theorem exec_frameEncode_above {m : Byte} {s : State} (h : ¬ m.toNat ≤ s.cfg.maxParams) (op16 : Half) :
    exec (.frameEncode m op16) s = .next (s.raise .illegalCommand) := by
  simp [exec, execFrameEncode, h]

theorem exec_checkWord_match (p : Half) (s : State) :
    exec (.checkWord (checksum (hiByte p) (loByte p)) p) s = .next s.succeed := by
  simp [exec, execCheckWord]

theorem exec_checkWord_mismatch {c : Byte} {p : Half} (h : c ≠ checksum (hiByte p) (loByte p))
    (s : State) : exec (.checkWord c p) s = .next (s.raise (.checksumError 0)) := by
  simp [exec, execCheckWord, h]

theorem exec_frameDecode_length {n : Byte} {s : State} (h : s.rxlen.toNat ≠ 3 * n.toNat) :
    exec (.frameDecode n) s = .next ((s.setCount 0).raise .lengthError) := by
  simp [exec, execFrameDecode, h]

theorem exec_frameDecode_bad {n : Byte} {s : State} {i : Nat} (h : s.rxlen.toNat = 3 * n.toNat)
    (hb : firstBadGroup s.mem.rxbuf n.toNat 0 = some i) :
    exec (.frameDecode n) s = .next ((s.setCount 0).raise (.checksumError i)) := by
  simp [exec, execFrameDecode, h, hb]

theorem exec_frameDecode_ok {n : Byte} {s : State} (h : s.rxlen.toNat = 3 * n.toNat)
    (hb : firstBadGroup s.mem.rxbuf n.toNat 0 = none) :
    exec (.frameDecode n) s =
      .next ((s.setPayload (publish s.mem.rxbuf n.toNat s.mem.payload)).setCount n).succeed := by
  simp [exec, execFrameDecode, h, hb]

theorem exec_fieldDecode (f : FieldId) (raw : Half) (s : State) :
    exec (.fieldDecode f raw) s =
      .next (s.setResult (toPattern32 (fieldNum s.ctrl f raw)) (fieldDen f)).succeed := rfl

/-! ### Every command at once -/

/-- Everything a command can do: its next state is one of these. -/
theorem exec_cases (i : Instr) (s : State) :
    (i = .crcInit ∧ exec i s = .next (s.setCrc 0xFF#8).succeed) ∨
    (∃ b, i = .crcByte b ∧ exec i s = .next (s.setCrc (crc8Byte s.crc b)).succeed) ∨
    (∃ p, i = .crcWord p ∧
      exec i s = .next (s.setCrc (checksum (hiByte p) (loByte p))).succeed) ∨
    (∃ m op16, i = .frameEncode m op16 ∧ m.toNat ≤ s.cfg.maxParams ∧
      exec i s = .next ((s.setTxbuf (encodeFrame s.mem.param m.toNat op16 s.mem.txbuf)).setTxlen
        (BitVec.ofNat 8 (2 + 3 * m.toNat))).succeed) ∨
    (∃ m op16, i = .frameEncode m op16 ∧ s.cfg.maxParams < m.toNat ∧
      exec i s = .next (s.raise .illegalCommand)) ∨
    (∃ c p, i = .checkWord c p ∧ c = checksum (hiByte p) (loByte p) ∧
      exec i s = .next s.succeed) ∨
    (∃ c p, i = .checkWord c p ∧ c ≠ checksum (hiByte p) (loByte p) ∧
      exec i s = .next (s.raise (.checksumError 0))) ∨
    (∃ n, i = .frameDecode n ∧ s.rxlen.toNat ≠ 3 * n.toNat ∧
      exec i s = .next ((s.setCount 0).raise .lengthError)) ∨
    (∃ n k, i = .frameDecode n ∧ s.rxlen.toNat = 3 * n.toNat ∧
      firstBadGroup s.mem.rxbuf n.toNat 0 = some k ∧
      exec i s = .next ((s.setCount 0).raise (.checksumError k))) ∨
    (∃ n, i = .frameDecode n ∧ s.rxlen.toNat = 3 * n.toNat ∧
      firstBadGroup s.mem.rxbuf n.toNat 0 = none ∧
      exec i s =
        .next ((s.setPayload (publish s.mem.rxbuf n.toNat s.mem.payload)).setCount n).succeed) ∨
    (∃ f raw, i = .fieldDecode f raw ∧
      exec i s = .next (s.setResult (toPattern32 (fieldNum s.ctrl f raw)) (fieldDen f)).succeed) := by
  cases i with
  | crcInit => exact .inl ⟨rfl, rfl⟩
  | crcByte b => exact .inr (.inl ⟨b, rfl, rfl⟩)
  | crcWord p => exact .inr (.inr (.inl ⟨p, rfl, rfl⟩))
  | frameEncode m op16 =>
    by_cases h : m.toNat ≤ s.cfg.maxParams
    · exact .inr (.inr (.inr (.inl ⟨m, op16, rfl, h, exec_frameEncode h op16⟩)))
    · exact .inr (.inr (.inr (.inr (.inl
        ⟨m, op16, rfl, by omega, exec_frameEncode_above h op16⟩))))
  | checkWord c p =>
    by_cases h : c = checksum (hiByte p) (loByte p)
    · exact .inr (.inr (.inr (.inr (.inr (.inl
        ⟨c, p, rfl, h, by rw [h]; exact exec_checkWord_match p s⟩)))))
    · exact .inr (.inr (.inr (.inr (.inr (.inr (.inl
        ⟨c, p, rfl, h, exec_checkWord_mismatch h s⟩))))))
  | frameDecode n =>
    by_cases h : s.rxlen.toNat = 3 * n.toNat
    · cases hb : firstBadGroup s.mem.rxbuf n.toNat 0 with
      | some k =>
        exact .inr (.inr (.inr (.inr (.inr (.inr (.inr (.inr (.inl
          ⟨n, k, rfl, h, hb, exec_frameDecode_bad h hb⟩))))))))
      | none =>
        exact .inr (.inr (.inr (.inr (.inr (.inr (.inr (.inr (.inr (.inl
          ⟨n, rfl, h, hb, exec_frameDecode_ok h hb⟩)))))))))
    · exact .inr (.inr (.inr (.inr (.inr (.inr (.inr (.inl
        ⟨n, rfl, h, exec_frameDecode_length h⟩)))))))
  | fieldDecode f raw =>
    exact .inr (.inr (.inr (.inr (.inr (.inr (.inr (.inr (.inr (.inr ⟨f, raw, rfl, rfl⟩)))))))))

/-- The state each meaning ends in, as one fact for any property of it: to show a property of the next state, show it of each of these. -/
theorem exec_induct {P : State → Prop} {s : State}
    (hcrc : ∀ v, P (s.setCrc v).succeed)
    (hframe : ∀ tx len, P ((s.setTxbuf tx).setTxlen len).succeed)
    (hfail : ∀ f, P (s.raise f))
    (hdecode : ∀ f, P ((s.setCount 0).raise f))
    (hcheck : P s.succeed)
    (hpublish : ∀ pay n, P ((s.setPayload pay).setCount n).succeed)
    (hfield : ∀ num den, P (s.setResult num den).succeed) (i : Instr) :
    ∃ t, exec i s = .next t ∧ P t := by
  cases i with
  | crcInit => exact ⟨_, rfl, hcrc _⟩
  | crcByte b => exact ⟨_, rfl, hcrc _⟩
  | crcWord p => exact ⟨_, rfl, hcrc _⟩
  | frameEncode m op16 =>
    by_cases h : m.toNat ≤ s.cfg.maxParams
    · exact ⟨_, exec_frameEncode h op16, hframe _ _⟩
    · exact ⟨_, exec_frameEncode_above h op16, hfail _⟩
  | checkWord c p =>
    by_cases h : c = checksum (hiByte p) (loByte p)
    · exact ⟨_, h ▸ exec_checkWord_match p s, hcheck⟩
    · exact ⟨_, exec_checkWord_mismatch h s, hfail _⟩
  | frameDecode n =>
    by_cases h : s.rxlen.toNat = 3 * n.toNat
    · cases hb : firstBadGroup s.mem.rxbuf n.toNat 0 with
      | some k => exact ⟨_, exec_frameDecode_bad h hb, hdecode _⟩
      | none => exact ⟨_, exec_frameDecode_ok h hb, hpublish _ _⟩
    · exact ⟨_, exec_frameDecode_length h, hdecode _⟩
  | fieldDecode f raw => exact ⟨_, rfl, hfield _ _⟩

/-- What no command touches: the operands, the parameters, the port. -/
theorem exec_keeps {i : Instr} {s t : State} (h : exec i s = .next t) :
    t.cfg = s.cfg ∧ t.ctrl = s.ctrl ∧ t.rxlen = s.rxlen ∧ t.mem.rxbuf = s.mem.rxbuf ∧
      t.mem.param = s.mem.param ∧ t.resets = s.resets ∧ t.port = s.port ∧ t.resp = s.resp := by
  obtain ⟨u, hu, kept⟩ := exec_induct (s := s) (P := fun u =>
    u.cfg = s.cfg ∧ u.ctrl = s.ctrl ∧ u.rxlen = s.rxlen ∧ u.mem.rxbuf = s.mem.rxbuf ∧
      u.mem.param = s.mem.param ∧ u.resets = s.resets ∧ u.port = s.port ∧ u.resp = s.resp)
    (by intros; simp) (by intros; simp) (by intros; simp) (by intros; simp) (by simp)
    (by intros; simp) (by intros; simp) i
  exact Host.Outcome.next.inj (hu.symm.trans h) ▸ kept

/-- Every command completes (70_reset_and_hazards.md R240). -/
theorem exec_next (i : Instr) (s : State) : ∃ t, exec i s = .next t := by
  obtain ⟨t, h, -⟩ := exec_induct (s := s) (P := fun _ => True) (fun _ => trivial)
    (fun _ _ => trivial) (fun _ => trivial) (fun _ => trivial) trivial (fun _ _ => trivial)
    (fun _ _ => trivial) i
  exact ⟨t, h⟩

end Sys2Proof.Machine
end

