-- ==== Sys2Proof/Laws/Operands.lean ====
section
/-! SUPPORT. The operand forms as numbers: the signed conversion's range, and that a 32-bit pattern read as signed gives the number back (00_scope.md R10, 43_field_decoders.md R162, R164). -/

namespace Sys2Proof.Machine

theorem sext16_range (v : Half) : -2 ^ 15 ≤ sext16 v ∧ sext16 v < 2 ^ 15 := by
  have := v.isLt
  unfold sext16
  split <;> omega

theorem zext16_range (v : Half) : 0 ≤ zext16 v ∧ zext16 v < 2 ^ 16 := by
  have := v.isLt
  unfold zext16
  omega

/-- `sint32` undoes the two's-complement pattern for every number that fits 32 signed bits. -/
theorem sint32_toPattern32 (x : Int) (h1 : -2 ^ 31 ≤ x) (h2 : x < 2 ^ 31) :
    sint32 (toPattern32 x) = x := by
  unfold sint32 toPattern32
  rw [BitVec.toNat_ofInt]
  split <;> omega

/-- Whatever the field, the payload's value is a 17-bit signed number. -/
theorem fieldValue_range (ctrl : BitVec 4) (f : FieldId) (raw : Half) :
    -2 ^ 15 ≤ fieldValue ctrl f raw ∧ fieldValue ctrl f raw < 2 ^ 16 := by
  have h1 := sext16_range raw
  have h2 := zext16_range raw
  unfold fieldValue
  split <;> omega

end Sys2Proof.Machine
end

