-- ==== Sys2Proof/Laws/PerInstr.lean ====
section
/-! SUPPORT. The family OpcodeByte: the OP byte of each command's word is the OP byte of its row in the opcode map (30_encoding.md R92), whatever the operands. -/

namespace Sys2Proof.Laws.OpcodeByte

/-- Some row of the opcode map has the command's mnemonic and the OP byte of its word. -/
def Statement (i : Instr) : Prop :=
  ∃ r, r ∈ opcodeRows ∧ r.mnemonic = i.mnemonic ∧
    (encode i).toNat / 2 ^ 24 = r.pattern.toNat / 2 ^ 24

theorem crcInit : Statement .crcInit :=
  ⟨opcodeRows[0], by simp [opcodeRows], rfl, rfl⟩

theorem crcByte (b : Byte) : Statement (.crcByte b) := by
  refine ⟨opcodeRows[1], by simp [opcodeRows], rfl, ?_⟩
  rw [toNat_encode_crcByte]
  show _ = 2
  have := b.isLt
  omega

theorem crcWord (p : Half) : Statement (.crcWord p) := by
  refine ⟨opcodeRows[2], by simp [opcodeRows], rfl, ?_⟩
  rw [toNat_encode_crcWord]
  show _ = 3
  have := p.isLt
  omega

theorem frameEncode (m : Byte) (op16 : Half) : Statement (.frameEncode m op16) := by
  refine ⟨opcodeRows[3], by simp [opcodeRows], rfl, ?_⟩
  rw [toNat_encode_frameEncode]
  show _ = 4
  have := m.isLt
  have := op16.isLt
  omega

theorem checkWord (c : Byte) (p : Half) : Statement (.checkWord c p) := by
  refine ⟨opcodeRows[4], by simp [opcodeRows], rfl, ?_⟩
  rw [toNat_encode_checkWord]
  show _ = 5
  have := c.isLt
  have := p.isLt
  omega

theorem frameDecode (n : Byte) : Statement (.frameDecode n) := by
  refine ⟨opcodeRows[5], by simp [opcodeRows], rfl, ?_⟩
  rw [toNat_encode_frameDecode]
  show _ = 6
  have := n.isLt
  omega

theorem fieldDecode (f : FieldId) (raw : Half) : Statement (.fieldDecode f raw) := by
  refine ⟨opcodeRows[6], by simp [opcodeRows], rfl, ?_⟩
  rw [toNat_encode_fieldDecode]
  show _ = 7
  have := f.code.isLt
  have := raw.isLt
  omega

end Sys2Proof.Laws.OpcodeByte
end

