-- ==== Sys2Proof/Laws/Window.lean ====
section
/-! SUPPORT. The address map (20_memory.md R61, R62) read in both directions, and what a write to a location does to the locations (R64, R70). -/

namespace Sys2Proof.Machine

/-- The parameter ranges of R7 as inequalities. -/
theorem Config.legal_iff (c : Config) :
    c.legal = true ↔ 1 ≤ c.maxWords ∧ c.maxWords ≤ 85 ∧ c.maxParams ≤ 84 := by
  simp [Config.legal, and_assoc]

/-- Every buffer fits its 256-slot range (R61). -/
theorem Config.caps_lt {c : Config} (h : c.legal = true) :
    c.rxCap ≤ 255 ∧ c.maxWords ≤ 85 ∧ c.maxParams ≤ 84 ∧ c.txCap ≤ 254 := by
  obtain ⟨h1, h2, h3⟩ := (Config.legal_iff c).1 h
  refine ⟨?_, h2, h3, ?_⟩
  · unfold Config.rxCap; omega
  · unfold Config.txCap; omega

theorem mappedSlot_eq_some_iff (i cap : Nat) (t u : Target) :
    mappedSlot i cap t = some u ↔ i < cap ∧ t = u := by
  unfold mappedSlot; split <;> simp_all

/-! ### From an offset to the location -/

/-- Where R61 puts each location, with the slots R62 maps, read from the location's side. -/
def Target.SitsAt (c : Config) (a : Nat) : Target → Prop
  | .id => a = 0x000
  | .ctrl => a = 0x004
  | .cmd => a = 0x008
  | .status => a = 0x00C
  | .crc => a = 0x010
  | .resultNum => a = 0x014
  | .resultDen => a = 0x018
  | .rxlen => a = 0x01C
  | .txlen => a = 0x020
  | .caps => a = 0x024
  | .rxbuf i => i < c.rxCap ∧ i < 256 ∧ a = 0x400 + 4 * i
  | .payload i => i < c.maxWords ∧ i < 256 ∧ a = 0x800 + 4 * i
  | .param j => j < c.maxParams ∧ j < 256 ∧ a = 0xC00 + 4 * j
  | .txbuf k => k < c.txCap ∧ k < 256 ∧ a = 0x1000 + 4 * k

/-- In the register range the map answers a register, and the one that sits there. -/
theorem registerAt_eq_some_iff (c : Config) {a : Nat} (ha : a % 4 = 0) (hr : a < 0x400) (t : Target) :
    registerAt (a / 4) = some t ↔ t.SitsAt c a := by
  obtain ⟨k, rfl⟩ : ∃ k, a = 4 * k := ⟨a / 4, by omega⟩
  rw [Nat.mul_div_cancel_left k (by decide)]
  unfold registerAt
  cases t <;> simp only [Target.SitsAt] <;> split <;> simp_all <;> omega

/-- Everything the address map can answer (R61): the location that sits at the offset, if there is one. -/
theorem mapAddress_eq_some_iff (c : Config) (a : Nat) (ha : a % 4 = 0) (t : Target) :
    mapAddress c a = some t ↔ t.SitsAt c a := by
  unfold mapAddress
  split
  · exact registerAt_eq_some_iff c ha ‹_› t
  · cases t <;> simp only [Target.SitsAt] <;> (repeat' split) <;>
      simp [mappedSlot_eq_some_iff] <;> omega

theorem targetAt_eq_some {c : Config} {a : Offset} {t : Target} (h : targetAt c a = some t) :
    a.toNat % 4 = 0 ∧ mapAddress c a.toNat = some t := by
  unfold targetAt at h
  split at h
  · exact ⟨‹_›, h⟩
  · cases h

/-! ### From a location to its offset -/

/-- The map's answer is the location whose offset it was asked for. -/
theorem offset_of_targetAt {c : Config} {a : Offset} {t : Target} (h : targetAt c a = some t) :
    t.offset = some a := by
  obtain ⟨h4, hm⟩ := targetAt_eq_some h
  have hs := (mapAddress_eq_some_iff c _ h4 t).1 hm
  have ofNat : ∀ k, a.toNat = k → some (BitVec.ofNat 13 k) = some a := fun k hk =>
    congrArg some (BitVec.eq_of_toNat_eq (by rw [hk, BitVec.toNat_ofNat]; have := a.isLt; omega))
  cases t with
  | rxbuf i => rw [Target.offset, if_pos hs.2.1]; exact ofNat _ hs.2.2
  | payload i => rw [Target.offset, if_pos hs.2.1]; exact ofNat _ hs.2.2
  | param j => rw [Target.offset, if_pos hs.2.1]; exact ofNat _ hs.2.2
  | txbuf k => rw [Target.offset, if_pos hs.2.1]; exact ofNat _ hs.2.2
  | _ => exact ofNat _ hs

/-- Two offsets with one location are one offset. -/
theorem targetAt_inj {c : Config} {a b : Offset} {t : Target} (ha : targetAt c a = some t)
    (hb : targetAt c b = some t) : a = b := by
  have := (offset_of_targetAt ha).symm.trans (offset_of_targetAt hb)
  exact Option.some.inj this

/-- The offset of each location as a number. -/
theorem toNat_of_targetAt {c : Config} {a : Offset} {t : Target} (h : targetAt c a = some t) :
    t.SitsAt c a.toNat :=
  (mapAddress_eq_some_iff c _ (targetAt_eq_some h).1 t).1 (targetAt_eq_some h).2

/-! ### Reads -/

/-- Two states read alike at an offset where its location has one value in both. -/
theorem readAt_congr {s t : State} {a : Offset} (hc : t.cfg = s.cfg)
    (h : ∀ u, targetAt s.cfg a = some u → t.readTarget u = s.readTarget u) :
    t.readAt a = s.readAt a := by
  unfold State.readAt
  rw [hc]
  cases e : targetAt s.cfg a with
  | none => rfl
  | some u => simp [h u e]

/-! ### Writes -/

/-- A write leaves what is outside the registers and buffers alone. -/
theorem writeTarget_keeps (s : State) (v : Word) (t : Target) :
    (s.writeTarget v t).cfg = s.cfg ∧ (s.writeTarget v t).resets = s.resets ∧
      (s.writeTarget v t).port = s.port ∧ (s.writeTarget v t).resp = s.resp := by
  cases t <;> exact ⟨rfl, rfl, rfl, rfl⟩

/-- A write to one location leaves every other location's value alone. -/
theorem readTarget_writeTarget_ne (s : State) (v : Word) {t u : Target} (h : u ≠ t) :
    (s.writeTarget v t).readTarget u = s.readTarget u := by
  cases t <;> cases u <;>
    first
    | rfl
    | exact absurd rfl h
    | simp only [State.writeTarget, State.readTarget, State.setRxbuf, State.setParam]
      rw [readSlot_writeSlot_ne _ _ (fun e => h (by rw [e]))]

/-- Writing the same value to one location twice is writing it once (R69). -/
theorem writeTarget_writeTarget (s : State) (v : Word) (t : Target) :
    (s.writeTarget v t).writeTarget v t = s.writeTarget v t := by
  cases t <;> simp [State.writeTarget, State.setCtrl, State.setRxlen, State.setRxbuf, State.setParam]

end Sys2Proof.Machine
end

