-- ==== Sys2Proof/Laws/Step.lean ====
section
/-! SUPPORT. Say once what a step can do: idle, a read, a refused write, a stored write, a command, or a reset (20_memory.md R63 to R73, 70_reset_and_hazards.md R230, R232). -/

namespace Sys2Proof.Machine

/-! ### The command of a `CMD` write -/

theorem runCommand_legal {w : Word} {i : Instr} {s : State} (h : decode s.cfg w = .legal i) :
    runCommand w s = exec i s := by
  simp [runCommand, h]

theorem runCommand_illegal {w : Word} {why : IllegalReason} {s : State}
    (h : decode s.cfg w = .illegal why) : runCommand w s = .next (s.raise .illegalCommand) := by
  simp [runCommand, h]

/-- A `CMD` write runs a decoded command or raises IllegalCommand (R94, R95). -/
theorem runCommand_cases (w : Word) (s : State) :
    (∃ i, decode s.cfg w = .legal i ∧ runCommand w s = exec i s) ∨
    (∃ why, decode s.cfg w = .illegal why ∧ runCommand w s = .next (s.raise .illegalCommand)) := by
  cases h : decode s.cfg w with
  | legal i => exact .inl ⟨i, rfl, runCommand_legal h⟩
  | illegal why => exact .inr ⟨why, rfl, runCommand_illegal h⟩

theorem runCommand_next (w : Word) (s : State) : ∃ t, runCommand w s = .next t := by
  obtain ⟨i, _, e⟩ | ⟨_, _, e⟩ := runCommand_cases w s
  · obtain ⟨t, h⟩ := exec_next i s; exact ⟨t, e.trans h⟩
  · exact ⟨_, e⟩

/-- What a `CMD` write leaves alone whatever it runs. -/
theorem runCommand_keeps {w : Word} {s t : State} (h : runCommand w s = .next t) :
    t.cfg = s.cfg ∧ t.ctrl = s.ctrl ∧ t.rxlen = s.rxlen ∧ t.mem.rxbuf = s.mem.rxbuf ∧
      t.mem.param = s.mem.param ∧ t.resets = s.resets ∧ t.port = s.port ∧ t.resp = s.resp := by
  obtain ⟨i, _, e⟩ | ⟨_, _, e⟩ := runCommand_cases w s
  · exact exec_keeps (e ▸ h)
  · rw [e] at h
    obtain rfl := Host.Outcome.next.inj h
    exact ⟨rfl, rfl, rfl, rfl, rfl, rfl, rfl, rfl⟩

/-! ### One access -/

/-- A read answers and changes nothing else (R69). -/
theorem performAccess_read (width : Width) (off : Offset) (s : State) :
    ∃ r, performAccess (.read width off) s = .next (s.respond r) := by
  simp only [performAccess]
  split <;> exact ⟨_, rfl⟩

/-- A write is refused, or stored, or is a `CMD` write, which completes when its command has. -/
theorem performAccess_write (width : Width) (lanes : BitVec 4) (off : Offset) (v : Word) (s : State) :
    ((∃ e, resolve s.cfg (.write width lanes off v) = .error e) ∧
      performAccess (.write width lanes off v) s = .next (s.respond .writeError)) ∨
    (∃ t, t ≠ .cmd ∧ resolve s.cfg (.write width lanes off v) = .ok t ∧
      performAccess (.write width lanes off v) s =
        .next ((s.writeTarget v t).respond .writeOk)) ∨
    (resolve s.cfg (.write width lanes off v) = .ok .cmd ∧
      ∃ u, runCommand v s = .next u ∧
        performAccess (.write width lanes off v) s = .next (u.respond .writeOk)) := by
  cases h : resolve s.cfg (.write width lanes off v) with
  | error e => exact .inl ⟨⟨e, rfl⟩, by simp [performAccess, h]⟩
  | ok t =>
    by_cases hc : t = .cmd
    · subst hc
      obtain ⟨u, hu⟩ := runCommand_next v s
      exact .inr (.inr ⟨rfl, u, hu, by simp [performAccess, h, performWrite, hu, completeWrite]⟩)
    · exact .inr (.inl ⟨t, hc, rfl, by simp [performAccess, h, performWrite, hc, completeWrite]⟩)

theorem locate_ok {c : Config} {whole : Bool} {off : Offset} {t : Target}
    (h : locate c whole off = .ok t) : whole = true ∧ targetAt c off = some t := by
  unfold locate at h
  cases whole with
  | false => cases h
  | true =>
    by_cases h4 : off.toNat % 4 = 0
    · cases hm : mapAddress c off.toNat with
      | none => simp [h4, hm] at h
      | some u =>
        obtain rfl : u = t := by simpa [h4, hm] using h
        exact ⟨rfl, by simp [targetAt, h4, hm]⟩
    · simp [h4] at h

/-- An access that is legal is whole, aligned and mapped (R65 to R67). -/
theorem resolve_write_ok {c : Config} {width : Width} {lanes : BitVec 4} {off : Offset} {v : Word}
    {t : Target} (h : resolve c (.write width lanes off v) = .ok t) :
    width = .w32 ∧ lanes = 0xF#4 ∧ targetAt c off = some t ∧ (t = .rxlen → v.toNat ≤ c.rxCap) := by
  simp only [resolve, checkValue] at h
  cases hl : locate c (width == .w32 && lanes == 0xF#4) off with
  | error e => simp [hl] at h
  | ok u =>
    simp only [hl] at h
    by_cases hv : u = .rxlen ∧ c.rxCap < v.toNat
    · rw [if_pos hv] at h; cases h
    · rw [if_neg hv] at h
      obtain rfl : u = t := Access.ok.inj h
      obtain ⟨hw, ht⟩ := locate_ok hl
      simp only [Bool.and_eq_true, beq_iff_eq] at hw
      exact ⟨hw.1, hw.2, ht, fun e => not_lt.1 fun hlt => hv ⟨e, hlt⟩⟩

theorem resolve_write_of_ok {c : Config} {off : Offset} {v : Word} {t : Target}
    (h : targetAt c off = some t) (hv : t = .rxlen → v.toNat ≤ c.rxCap) :
    resolve c (.write .w32 0xF#4 off v) = .ok t := by
  obtain ⟨h4, hm⟩ := targetAt_eq_some h
  simp only [resolve, locate, checkValue, h4, hm]
  simp
  intro e
  have := hv e
  omega

theorem resolve_read_of_ok {c : Config} {off : Offset} {t : Target} (h : targetAt c off = some t) :
    resolve c (.read .w32 off) = .ok t := by
  obtain ⟨h4, hm⟩ := targetAt_eq_some h
  simp [resolve, locate, h4, hm]

theorem targetAt_cmd (c : Config) : targetAt c 0x008#13 = some .cmd := rfl

@[simp] theorem resolve_cmdWrite (c : Config) (w : Word) : resolve c (cmdWrite w) = .ok .cmd := rfl

/-- A `CMD` write runs its command and completes with it. -/
theorem performAccess_cmdWrite (w : Word) (s : State) :
    performAccess (cmdWrite w) s = completeWrite (runCommand w s) := rfl

/-! ### One step -/

theorem step_idle {s : State} (h : s.port = []) : step s = .next s := by
  simp [step, stepPort, h]

theorem step_event {s : State} {e : HostEvent} {rest : List HostEvent} (h : s.port = e :: rest) :
    step s = performEvent e (s.setPort rest) := by
  simp [step, stepPort, h]

/-- A whole read of a mapped location answers its value. -/
theorem step_read {s : State} {a : Offset} {rest : List HostEvent} {t : Target}
    (hp : s.port = .access (memRead a) :: rest) (ht : targetAt s.cfg a = some t) :
    step s = .next ((s.setPort rest).respond (.readOk (s.readTarget t))) := by
  have hr : resolve (s.setPort rest).cfg (.read .w32 a) = .ok t := resolve_read_of_ok ht
  rw [step_event hp]
  simp only [performEvent, performAccess, memRead, hr]
  cases t <;> rfl

/-- A whole legal write of a location other than CMD stores there. -/
theorem step_write {s : State} {a : Offset} {v : Word} {rest : List HostEvent} {t : Target}
    (hp : s.port = .access (memWrite a v) :: rest) (ht : targetAt s.cfg a = some t)
    (hv : t = .rxlen → v.toNat ≤ s.cfg.rxCap) (hne : t ≠ .cmd) :
    step s = .next (((s.setPort rest).writeTarget v t).respond .writeOk) := by
  have hr : resolve (s.setPort rest).cfg (.write .w32 0xF#4 a v) = .ok t :=
    resolve_write_of_ok ht hv
  rw [step_event hp]
  simp only [performEvent, performAccess, memWrite, hr]
  simp [performWrite, hne, completeWrite]

/-- Everything a step can do. -/
theorem step_cases (s : State) :
    (s.port = [] ∧ step s = .next s) ∨
    (∃ width off rest r, s.port = .access (.read width off) :: rest ∧
      step s = .next ((s.setPort rest).respond r)) ∨
    (∃ width lanes off v rest e, s.port = .access (.write width lanes off v) :: rest ∧
      resolve s.cfg (.write width lanes off v) = .error e ∧
      step s = .next ((s.setPort rest).respond .writeError)) ∨
    (∃ off v rest t, s.port = .access (.write .w32 0xF#4 off v) :: rest ∧ t ≠ .cmd ∧
      targetAt s.cfg off = some t ∧ (t = .rxlen → v.toNat ≤ s.cfg.rxCap) ∧
      step s = .next (((s.setPort rest).writeTarget v t).respond .writeOk)) ∨
    (∃ w rest u, s.port = .access (cmdWrite w) :: rest ∧ runCommand w (s.setPort rest) = .next u ∧
      step s = .next (u.respond .writeOk)) ∨
    (∃ rest, (s.port = .reset :: rest ∨ ∃ w, s.port = .resetDuring w :: rest) ∧
      step s = .next (s.setPort rest).resetNow) := by
  cases hp : s.port with
  | nil => exact .inl ⟨rfl, step_idle hp⟩
  | cons e rest =>
    have hs := step_event hp
    cases e with
    | reset => exact .inr (.inr (.inr (.inr (.inr ⟨rest, .inl rfl, hs⟩))))
    | resetDuring w => exact .inr (.inr (.inr (.inr (.inr ⟨rest, .inr ⟨w, rfl⟩, hs⟩))))
    | access a =>
      cases a with
      | read width off =>
        obtain ⟨r, hr⟩ := performAccess_read width off (s.setPort rest)
        exact .inr (.inl ⟨width, off, rest, r, rfl, hs.trans hr⟩)
      | write width lanes off v =>
        obtain ⟨⟨e, he⟩, hw⟩ | ⟨t, hc, ht, hw⟩ | ⟨ht, u, hu, hw⟩ :=
          performAccess_write width lanes off v (s.setPort rest)
        · exact .inr (.inr (.inl ⟨width, lanes, off, v, rest, e, rfl, he, hs.trans hw⟩))
        · obtain ⟨rfl, rfl, hm, hv⟩ := resolve_write_ok ht
          exact .inr (.inr (.inr (.inl ⟨off, v, rest, t, rfl, hc, hm, hv, hs.trans hw⟩)))
        · obtain ⟨rfl, rfl, hm, -⟩ := resolve_write_ok ht
          obtain rfl : 0x008#13 = off := targetAt_inj (targetAt_cmd _) hm
          exact .inr (.inr (.inr (.inr (.inl ⟨v, rest, u, rfl, hu, hs.trans hw⟩))))

end Sys2Proof.Machine
end

