-- ==== Sys2Proof/Laws/Run.lean ====
section
/-! SUPPORT. Runs of several steps, and one induction for all safety claims: what holds at the start and is kept by every step holds along every run. -/

namespace Sys2Proof.Machine

theorem runSteps_zero (s : State) : runSteps 0 s = .next s := rfl

theorem runSteps_succ {k : Nat} {s t : State} (h : step s = .next t) :
    runSteps (k + 1) s = runSteps k t := by
  rw [runSteps, h]

theorem runSteps_one (s : State) : runSteps 1 s = step s := by
  unfold runSteps
  cases step s <;> rfl

/-- What every step keeps holds after every run that does not stop. -/
theorem runSteps_keeps {P : State → Prop} (hstep : ∀ s t, P s → step s = .next t → P t) (k : Nat) :
    ∀ s t, P s → runSteps k s = .next t → P t := by
  induction k with
  | zero =>
    intro s t hs h
    obtain rfl := Host.Outcome.next.inj h
    exact hs
  | succ k ih =>
    intro s t hs h
    rw [runSteps] at h
    cases e : step s with
    | next u => rw [e] at h; exact ih u t (hstep s u hs e) h
    | fault r => rw [e] at h; cases h
    | refused r => rw [e] at h; cases h

end Sys2Proof.Machine
end

