-- ==== Sys2Proof/Tests/Slice0.lean ====
section
/-! SUPPORT. Tests on the spec's own vectors (95_test_vectors.md, cited by id), written-out encodings, the well-formedness smoke test, and a witness for the hypotheses of each statement. -/

namespace Sys2Proof.Machine.Tests

/-! ### Helpers -/

/-- What a result's next state shows, if there is one. -/
def view {α : Type} (r : Result) (f : State → α) : Option α :=
  match r with
  | .next t => some (f t)
  | .fault _ => none
  | .refused _ => none

/-- A small state of the default build: `rx` at the start of RXBUF, `ps` at the start of PARAM, the rest of the buffers 0, CRC 0x3C and COUNT 5 as the vectors of section 2.1 have them. -/
def box (rx : List Byte) (len : Byte) (ps : List Half) (port : List HostEvent) : State where
  ctrl := 0
  status := { err := .none, errIndex := 0, count := 5 }
  crc := 0x3C
  resultNum := 0
  resultDen := 1
  rxlen := len
  txlen := 0
  mem :=
    { rxbuf := rx ++ List.replicate (48 - rx.length) 0
      payload := List.replicate 16 0
      param := ps ++ List.replicate (16 - ps.length) 0
      txbuf := List.replicate 50 0 }
  cfg := Config.default
  resets := 1
  port := port
  resp := none

/-- The state with nothing loaded. -/
def plain : State := box [] 0 [] []

/-- Frame G of section 2.3. -/
def frameG : List Byte := [0xBE, 0xEF, 0x92, 0x01, 0x95, 0xB9, 0x66, 0x66, 0x93]

/-- A frame of `k` copies of the valid DataWord BE EF 92 (L2-C2). -/
def copies : Nat → List Byte
  | 0 => []
  | k + 1 => 0xBE :: 0xEF :: 0x92 :: copies k

/-- A state with one host access pending. -/
def pending (a : HostAccess) : State := box [] 0 [] [.access a]

theorem box_inv (rx : List Byte) (len : Byte) (ps : List Half) (port : List HostEvent)
    (h1 : rx.length ≤ 48) (h2 : len.toNat ≤ 48) (h3 : ps.length ≤ 16) :
    (box rx len ps port).Inv := by
  refine ⟨rfl, ?_, h2, .inl rfl, ?_, ?_, ?_, fun _ => rfl, ?_⟩
  · rw [Memory.wf_iff]
    refine ⟨?_, rfl, ?_, rfl⟩
    · simp [box, Config.rxCap, Config.default]; omega
    · simp [box, Config.default]; omega
  · show (1 : Word) ∈ resultDens; decide
  · show -2949120 ≤ sint32 0 ∧ sint32 0 ≤ 8519505; decide
  · show (5#8).toNat ≤ 16; decide
  · show (0#8).toNat < 16; decide

/-! ### Well-formedness smoke (R92: the one value constraint) -/

theorem test_wf_refuses_count_above_max_params :
    (Instr.frameEncode 17 0xABCD).wf Config.default = false := by decide

theorem test_wf_admits_count_at_max_params :
    (Instr.frameEncode 16 0xABCD).wf Config.default = true := by decide

/-! ### Encodings written out bit by bit (R90, R92) -/

theorem test_decode_crcInit :
    decodeTableWord 32 0b00000001_00000000_0000000000000000 = some .crcInit := by decide

theorem test_decode_crcByte :
    decodeTableWord 32 0b00000010_00000000_00000000_10111110 = some (.crcByte 0xBE) := by decide

theorem test_decode_crcWord :
    decodeTableWord 32 0b00000011_00000000_1011111011101111 = some (.crcWord 0xBEEF) := by decide

theorem test_decode_frameEncode :
    decodeTableWord 32 0b00000100_00010000_1010101111001101 =
      some (.frameEncode 16 0xABCD) := by decide

theorem test_decode_checkWord :
    decodeTableWord 32 0b00000101_10010010_1011111011101111 =
      some (.checkWord 0x92 0xBEEF) := by decide

theorem test_decode_frameDecode :
    decodeTableWord 32 0b00000110_11001000_0000000000000000 = some (.frameDecode 200) := by decide

theorem test_decode_fieldDecode :
    decodeTableWord 32 0b00000111_0000_1101_1111111110011100 =
      some (.fieldDecode .calOffset 0xFF9C) := by decide

theorem test_encode_words :
    [encode .crcInit, encode (.crcByte 0xBE), encode (.crcWord 0xBEEF),
      encode (.frameEncode 3 0x6077), encode (.checkWord 0x3E 0x3608), encode (.frameDecode 3),
      encode (.fieldDecode .calTc 0x012C)] =
    [0x01000000#32, 0x020000BE#32, 0x0300BEEF#32, 0x04036077#32, 0x053E3608#32, 0x06030000#32,
      0x070F012C#32] := by decide

/-- The illegal words of section 2.5. -/
theorem test_illegal_words_rejected :
    [0x00000000, 0x08000000, 0xFF000000, 0x01000001, 0x01010000, 0x02000100, 0x02010000,
      0x03010000, 0x04110000, 0x06000001, 0x07100000].map (decodeTableWord 32) =
    List.replicate 11 none := by decide

/-! ### The checksum (section 2.1; R121, R122) -/

theorem test_crc8Byte_vectors :
    crc8Byte 0xFF 0x00 = 0xAC ∧ crc8Byte 0x00 0x80 = 0x7A ∧ crc8Byte 0xFF 0xBE = 0x0C ∧
      crc8Byte 0x0C 0xEF = 0x92 := by decide +kernel

theorem test_checksum_vectors :
    [0x0000, 0xBEEF, 0xFFFF, 0x3608, 0x0195, 0x6666, 0xFF38, 0xFF00, 0x2710, 0xABCD].map
      checksumHalf =
    [0x81, 0x92, 0xAC, 0xD0, 0xB9, 0x93, 0x7C, 0x00, 0xB0, 0x6F] := by decide +kernel

/-! ### Commands, one step each -/

/-- L2-K2. -/
theorem test_crcInit : view (exec .crcInit plain) (fun t => (t.crc, t.status.toWord)) =
    some (0xFF, 0x00050000) := by decide

/-- L2-K1: the first byte after reset. -/
theorem test_crcByte_after_reset :
    view (exec (.crcByte 0xBE) State.reset) (fun t => (t.crc, t.status.toWord)) =
      some (0x0C, 0) := by decide +kernel

/-- L2-K6: the earlier CRC is not read. -/
theorem test_crcWord : view (exec (.crcWord 0xBEEF) plain) (fun t => t.crc) = some 0x92 := by
  decide +kernel

/-- L2-E3. -/
theorem test_frameEncode :
    view (exec (.frameEncode 3 0x6077) (box [] 0 [0xFF9C, 0x2710, 0x012C] []))
      (fun t => (t.mem.txbuf.take 12, t.txlen, t.crc)) =
    some ([0x60, 0x77, 0xFF, 0x9C, 0x44, 0x27, 0x10, 0xB0, 0x01, 0x2C, 0x8E, 0x00], 11, 0x3C) := by
  decide +kernel

/-- L2-E1: the plain command frame. -/
theorem test_frameEncode_plain :
    view (exec (.frameEncode 0 0x3608) plain) (fun t => (t.mem.txbuf.take 3, t.txlen)) =
      some ([0x36, 0x08, 0x00], 2) := by decide +kernel

/-- L2-W1, L2-W2. -/
theorem test_checkWord :
    view (exec (.checkWord 0x92 0xBEEF) plain) (fun t => t.status.toWord) = some 0x00050000 ∧
    view (exec (.checkWord 0x93 0xBEEF) plain) (fun t => t.status.toWord) = some 0x00050001 := by
  decide +kernel

/-- L2-D1, L2-D9 to L2-D11, L2-D6, L2-D7: success, the first failing index, and LengthError. -/
theorem test_frameDecode :
    view (exec (.frameDecode 3) (box frameG 9 [] [])) (fun t => (t.status.toWord, t.mem.payload.take 4)) =
      some (0x00030000, [0xBEEF, 0x0195, 0x6666, 0x0000]) ∧
    view (exec (.frameDecode 3) (box (frameG.set 8 0x94) 9 [] []))
      (fun t => (t.status.toWord, t.mem.payload.take 4)) = some (0x00000201, [0, 0, 0, 0]) := by
  decide +kernel

theorem test_frameDecode_failures :
    view (exec (.frameDecode 3) (box ((frameG.set 5 0).set 8 0) 9 [] [])) (fun t => t.status.toWord) =
      some 0x00000101 ∧
    view (exec (.frameDecode 1) (box (frameG.take 6) 6 [] [])) (fun t => t.status.toWord) =
      some 0x00000002 ∧
    view (exec (.frameDecode 200) (box frameG 9 [] [])) (fun t => t.status.toWord) =
      some 0x00000002 := by decide +kernel

/-- L1-3, L1-4: the signed conversion comes before scaling, and co2_temp has an offset. -/
theorem test_fieldDecode :
    view (exec (.fieldDecode .flow 0xFF38) plain) (fun t => (t.resultNum, t.resultDen)) =
      some (0xFFFFFF38, 1200) ∧
    view (exec (.fieldDecode .co2Temp 0x6666) plain) (fun t => (t.resultNum, t.resultDen)) =
      some (0x0018FFBA, 65536) := by decide +kernel

/-- L2-F17, L2-F18: only the field whose own flag is set is signed. -/
theorem test_fieldDecode_flags :
    view (exec (.fieldDecode .pm1 0xFFF6) (plain.setCtrl 0x2)) (fun t => t.resultNum) =
      some 0x0000FFF6 ∧
    view (exec (.fieldDecode .pm25 0xFFF6) (plain.setCtrl 0x2)) (fun t => t.resultNum) =
      some 0xFFFFFFF6 := by decide +kernel

/-! ### The port (section 2.5) -/

/-- The response to one access from the plain state. -/
def answer (a : HostAccess) : Option (Option PortResponse) :=
  view (step (pending a)) fun t => t.resp

/-- L2-H1 to L2-H3, L2-H11. -/
theorem test_port_reads :
    answer (memRead 0x002) = some (some (.readError 0)) ∧
    answer (memRead 0x028) = some (some (.readError 0)) ∧
    answer (memRead 0x008) = some (some (.readOk 0)) ∧
    answer (.read .w8 0x000) = some (some (.readError 0)) := by decide

/-- L2-H4, L2-H5, L2-H9, L2-H10. -/
theorem test_port_map :
    answer (memRead 0x000) = some (some (.readOk 0x43524338)) ∧
    answer (memRead 0x024) = some (some (.readOk 0x00001010)) ∧
    answer (memRead 0x4C0) = some (some (.readError 0)) ∧
    answer (memRead 0x10C8) = some (some (.readError 0)) := by decide

/-- L2-H6, L2-H7. -/
theorem test_port_rxlen :
    view (step (pending (memWrite 0x01C 49))) (fun t => (t.resp, t.rxlen)) =
      some (some .writeError, 0) ∧
    view (step (pending (memWrite 0x01C 48))) (fun t => (t.resp, t.rxlen)) =
      some (some .writeOk, 48) := by decide

/-- L2-H8, L2-H12 to L2-H14. -/
theorem test_port_writes :
    view (step (pending (memWrite 0x010 0))) (fun t => (t.resp, t.crc)) = some (some .writeOk, 0x3C) ∧
    view (step (pending (memWrite 0x004 0xFFFFFFFF))) (fun t => t.readAt 0x004) = some (some 0xF) ∧
    view (step (pending (memWrite 0x400 0x1234))) (fun t => t.readAt 0x400) = some (some 0x34) ∧
    view (step (pending (memWrite 0xC00 0xABCDEF01))) (fun t => t.readAt 0xC00) =
      some (some 0xEF01) := by decide

/-- L2-K7: an illegal word is accepted on the port. -/
theorem test_port_illegal_word :
    view (step (pending (cmdWrite 0x01000001))) (fun t => (t.resp, t.status.toWord, t.crc)) =
      some (some .writeOk, 0x00050003, 0x3C) := by decide

/-- Each row of the opcode table runs as the first command after reset. -/
theorem test_first_command_after_reset :
    [0x01000000, 0x02000000, 0x03000000, 0x04000000, 0x05000000, 0x06000000, 0x07000000].map
      (fun w => view (step (State.reset.withFetchWord 32 w)) fun t => (t.status.err, t.resp)) =
    [some (.none, some .writeOk), some (.none, some .writeOk), some (.none, some .writeOk),
      some (.none, some .writeOk), some (.checksum, some .writeOk), some (.none, some .writeOk),
      some (.none, some .writeOk)] := by decide +kernel

/-- R98, R99: what three lines assemble to. -/
theorem test_assemble :
    assemble Config.default (.checkWord 0x3608 0x3E) = some [cmdWrite 0x053E3608] ∧
    assemble Config.default (.rxLoad [0xBE, 0xEF]) =
      some [memWrite 0x400 0xBE, memWrite 0x404 0xEF, memWrite 0x01C 2] ∧
    assemble Config.default (.frameEncode 17 0) = none := by decide

/-! ### Witnesses: a state and operands that meet the hypotheses of each statement, at the edge of each clause's range -/

theorem witness_DecodeOfEncodeIsIdentity : (Instr.frameEncode 16 0xFFFF).wf Config.default = true := by
  decide

theorem witness_EncodeOfDecodeIsIdentity :
    decode Config.default 0x0410FFFF = .legal (.frameEncode 16 0xFFFF) := by decide

theorem witness_RowSelectedByMatchAndMask : opcodeRows[3] ∈ opcodeRows ∧
    (0x0410FFFF#32 &&& opcodeRows[3].mask = opcodeRows[3].pattern ∧
      aNumber 0x0410FFFF ≤ Config.default.maxParams) ∧
    ¬ aNumber 0x0411FFFF ≤ Config.default.maxParams := by decide

theorem witness_IllegalCausesExhaustive : IllegalCause Config.default 0x04110000 ∧
    opNumber 0x05000000 = 0x05 := by
  constructor
  · unfold IllegalCause; decide
  · decide

/-- One word for each clause of the match. -/
theorem witness_DecodedOperandsAreFields :
    decode Config.default 0x01000000 = .legal .crcInit ∧
    decode Config.default 0x020000FF = .legal (.crcByte 0xFF) ∧
    decode Config.default 0x0300FFFF = .legal (.crcWord 0xFFFF) ∧
    decode Config.default 0x0410FFFF = .legal (.frameEncode 16 0xFFFF) ∧
    decode Config.default 0x05FFFFFF = .legal (.checkWord 0xFF 0xFFFF) ∧
    decode Config.default 0x06FF0000 = .legal (.frameDecode 0xFF) ∧
    decode Config.default 0x070FFFFF = .legal (.fieldDecode .calTc 0xFFFF) := by decide

/-- Three flipped bits across the word, and a burst of 8 at its end. -/
theorem witness_SmallErrorsAreDetected :
    (dataWordOk 0xBEEF92 = true ∧ 0x800401#24 ≠ 0 ∧ flipCount 0x800401 ≤ 3) ∧
    (0xFF0000#24 ≠ 0 ∧ inBurst 0xFF0000) := by
  refine ⟨by decide +kernel, by decide, 16, fun i h => ?_⟩
  have hi : i < 24 := BitVec.lt_of_getLsbD h
  revert h
  interval_cases i <;> decide

theorem witness_CrcInitEffect : opNumber 0x01FF0000 = 1 ∧ aNumber 0x01FF0000 ≠ 0 ∧
    opNumber 0x01000001 = 1 ∧ bNumber 0x01000001 ≠ 0 := by decide

theorem witness_CrcByteEffect : opNumber 0x02010000 = 2 ∧ aNumber 0x02010000 ≠ 0 ∧
    opNumber 0x02000100 = 2 ∧ bNumber 0x02000100 / 2 ^ 8 ≠ 0 := by decide

theorem witness_CrcWordEffect : opNumber 0x03010000 = 3 ∧ aNumber 0x03010000 ≠ 0 := by decide

theorem witness_FrameEncodeBuildsFrame : plain.Inv ∧ (16#8).toNat ≤ plain.cfg.maxParams :=
  ⟨box_inv _ _ _ _ (by decide) (by decide) (by decide), by decide⟩

theorem witness_FrameEncodeCountAboveLimit :
    opNumber 0x04110000 = 4 ∧ plain.cfg.maxParams < aNumber 0x04110000 := by decide

theorem witness_CheckWordEffect : (0x93#8 : Byte) ≠ checksum (hiByte 0xBEEF) (loByte 0xBEEF) := by
  decide +kernel

theorem witness_FrameDecodeLengthError : (box frameG 9 [] []).rxlen.toNat ≠ 3 * (2#8).toNat := by
  decide

/-- Groups 0 and 1 valid, the last one not. -/
theorem witness_FrameDecodeFirstBadGroup :
    (box (frameG.set 8 0x94) 9 [] []).rxlen.toNat = 3 * (3#8).toNat ∧ 2 < (3#8).toNat ∧
    (∀ j, j < 2 → GroupValid (box (frameG.set 8 0x94) 9 [] []) j) ∧
    ¬ GroupValid (box (frameG.set 8 0x94) 9 [] []) 2 := by
  unfold GroupValid; decide +kernel

/-- The longest frame of the build, and the shortest. -/
theorem witness_FrameDecodePublishes :
    ((box (copies 16) 48 [] []).Inv ∧ (box (copies 16) 48 [] []).rxlen.toNat = 3 * (16#8).toNat ∧
      ∀ i, i < (16#8).toNat → GroupValid (box (copies 16) 48 [] []) i) ∧
    plain.Inv ∧ plain.rxlen.toNat = 3 * (0#8).toNat := by
  refine ⟨⟨box_inv _ _ _ _ (by decide) (by decide) (by decide), by decide, ?_⟩,
    box_inv _ _ _ _ (by decide) (by decide) (by decide), by decide⟩
  unfold GroupValid; decide +kernel

theorem witness_ImpossibleLengthsAreLengthErrors :
    (plain.Inv ∧ plain.cfg.maxWords < (17#8).toNat) ∧
    (box frameG 5 [] []).Inv ∧ (box frameG 5 [] []).rxlen.toNat % 3 ≠ 0 :=
  ⟨⟨box_inv _ _ _ _ (by decide) (by decide) (by decide), by decide⟩,
    box_inv _ _ _ _ (by decide) (by decide) (by decide), by decide⟩

/-- The last byte of the last group of the longest frame. -/
theorem witness_OneChangedByteIsReported :
    (box (copies 16) 48 [] []).Inv ∧ (box (copies 16) 48 [] []).rxlen.toNat = 3 * (16#8).toNat ∧
    (∀ i, i < (16#8).toNat → GroupValid (box (copies 16) 48 [] []) i) ∧ 15 < (16#8).toNat ∧
    2 < 3 ∧ (0x93#8 : Byte) ≠ readSlot (box (copies 16) 48 [] []).mem.rxbuf (3 * 15 + 2) := by
  refine ⟨box_inv _ _ _ _ (by decide) (by decide) (by decide), by decide, ?_, by decide, by decide,
    by decide⟩
  unfold GroupValid; decide +kernel

/-- A signed field at 0x8000 and 0x7FFF, an unsigned one at 0xFFFF, a flagged one both ways. -/
theorem witness_FieldDecodeIsExact :
    (∃ t, exec (.fieldDecode .flow 0x8000) plain = .next t) ∧ SignedField plain.ctrl .flow ∧
    2 ^ 15 ≤ (0x8000#16).toNat ∧ (0x7FFF#16).toNat < 2 ^ 15 ∧ ¬ SignedField plain.ctrl .co2Temp ∧
    SignedField 0x8 .pm10 ∧ ¬ SignedField 0x7 .pm10 := by
  refine ⟨⟨_, rfl⟩, .inl rfl, by decide, by decide, ?_, ?_, ?_⟩ <;> unfold SignedField <;> decide

/-- One command of each kind, with an offset each clause speaks of. -/
theorem witness_RegisterCommandsFrame :
    (∃ t, exec .crcInit plain = .next t) ∧ (∃ t, exec (.crcByte 1) plain = .next t) ∧
    (∃ t, exec (.crcWord 1) plain = .next t) ∧
    (∃ t, exec (.fieldDecode .voc 1) plain = .next t) ∧
    (∃ t, exec (.checkWord 0 1) plain = .next t) ∧
    (0x018#13).toNat ≠ 0x00C ∧ (0x014#13).toNat ≠ 0x010 :=
  ⟨⟨_, rfl⟩, ⟨_, rfl⟩, ⟨_, rfl⟩, ⟨_, rfl⟩, ⟨_, exec_checkWord_mismatch (by decide +kernel) _⟩, by decide, by decide⟩

/-- The slot right behind the frame. -/
theorem witness_FrameEncodeFrame :
    (∃ t, exec (.frameEncode 1 0) plain = .next t) ∧ (0x1014#13).toNat ≠ 0x00C ∧
    (0x1014#13).toNat ≠ 0x020 ∧ ∀ k, k < 2 + 3 * (1#8).toNat → (0x1014#13).toNat ≠ 0x1000 + 4 * k :=
  ⟨⟨_, rfl⟩, by decide, by decide, by decide⟩

/-- A success, with the slot right behind the payloads, and a failure. -/
theorem witness_FrameDecodeFrame :
    (∃ t, exec (.frameDecode 0) plain = .next t ∧ t.status.err = .none) ∧
    (∃ t, exec (.frameDecode 1) plain = .next t ∧ t.status.err ≠ .none) ∧
    ∀ k, k < (0#8).toNat → (0x800#13).toNat ≠ 0x800 + 4 * k :=
  ⟨⟨_, rfl, rfl⟩, ⟨(plain.setCount 0).raise .lengthError, rfl, by decide⟩, by decide⟩

theorem witness_CommandsKeepOperands : ∃ t, runCommand 0x01000000 plain = .next t := ⟨_, rfl⟩

/-- IllegalCommand, LengthError and ChecksumError. -/
theorem witness_FailedCommandIsPrecise :
    (∃ t, runCommand 0x00000000 plain = .next t ∧ t.status.err ≠ .none) ∧
    (∃ t, runCommand 0x06010000 plain = .next t ∧ t.status.err ≠ .none) ∧
    (∃ t, runCommand 0x05000000 plain = .next t ∧ t.status.err = .checksum) :=
  ⟨⟨plain.raise .illegalCommand, rfl, by decide⟩,
    ⟨(plain.setCount 0).raise .lengthError, rfl, by decide⟩,
    ⟨plain.raise (.checksumError 0),
      (runCommand_legal (i := .checkWord 0 0) (by decide)).trans
        (exec_checkWord_mismatch (by decide +kernel) _), by decide⟩⟩

/-- A command and a reset that change CRC. -/
theorem witness_OnlyCrcCommandsWriteCrc :
    (∃ t, step (pending (cmdWrite 0x01000000)) = .next t ∧ t.crc ≠ (pending (cmdWrite 0x01000000)).crc) ∧
    ∃ t, step (box [] 0 [] [.reset]) = .next t ∧ t.crc ≠ (box [] 0 [] [.reset]).crc :=
  ⟨⟨((plain.setCrc 0xFF).succeed).respond .writeOk, rfl, by decide⟩,
    ⟨(box [] 0 [] []).resetNow, rfl, by decide⟩⟩

/-- Two states that agree on the operands and differ in CRC. -/
theorem witness_PublishedResultsArePure :
    (∀ b, Instr.crcWord 1 ≠ .crcByte b) ∧ (Instr.crcWord 1).wf plain.cfg = true ∧ plain.Inv ∧
    (plain.setCrc 0).Inv ∧ SameOperands plain (plain.setCrc 0) ∧
    (∃ t, exec (.crcWord 1) plain = .next t) ∧ ∃ v, exec (.crcWord 1) (plain.setCrc 0) = .next v := by
  have h : plain.Inv := box_inv _ _ _ _ (by decide) (by decide) (by decide)
  exact ⟨fun _ => by simp, rfl, h, ⟨h.1, h.2, h.3, h.4, h.5, h.6, h.7, h.8, h.9⟩,
    ⟨rfl, rfl, rfl, rfl, rfl⟩, ⟨_, rfl⟩, ⟨_, rfl⟩⟩

/-- The parameter 0xBEEF encoded, and its triplet copied into RXBUF. -/
theorem witness_EncodedFrameDecodesBack :
    ∃ s t u : State, s.Inv ∧ 1 ≤ (1#8).toNat ∧ (1#8).toNat ≤ s.cfg.maxParams ∧
      (1#8).toNat ≤ s.cfg.maxWords ∧ exec (.frameEncode 1 0x3608) s = .next t ∧ u.Inv ∧
      u.cfg = s.cfg ∧ u.rxlen.toNat = 3 * (1#8).toNat ∧
      ∀ k, k < 3 * (1#8).toNat → readSlot u.mem.rxbuf k = readSlot t.mem.txbuf (2 + k) := by
  refine ⟨box [] 0 [0xBEEF] [], _, box [0xBE, 0xEF, 0x92] 3 [] [],
    box_inv _ _ _ _ (by decide) (by decide) (by decide), by decide, by decide, by decide, rfl,
    box_inv _ _ _ _ (by decide) (by decide) (by decide), rfl, by decide, ?_⟩
  decide +kernel

theorem witness_StepRunsDecodedCommand :
    (pending (cmdWrite 0x06FF0000)).port = [.access (.write .w32 0xF#4 0x008#13 0x06FF0000)] ∧
    decode (pending (cmdWrite 0x06FF0000)).cfg 0x06FF0000 = .legal (.frameDecode 0xFF) := by decide

theorem witness_IllegalWordOnThePort :
    (pending (cmdWrite 0x04110000)).port = [.access (.write .w32 0xF#4 0x008#13 0x04110000)] ∧
    IllegalCause (pending (cmdWrite 0x04110000)).cfg 0x04110000 := by
  constructor
  · decide
  · unfold IllegalCause; decide

/-- One access for each cause, at the edge of its range, and the legal neighbours. -/
theorem witness_RefusedAccessesChangeNothing :
    plain.cfg.legal = true ∧ RefusedAccess plain.cfg (.read .w16 0x000) ∧
    RefusedAccess plain.cfg (.write .w32 0x7 0x004 0) ∧ RefusedAccess plain.cfg (.read .w32 0x001) ∧
    RefusedAccess plain.cfg (memWrite 0x01C 49) ∧ ¬ RefusedAccess plain.cfg (memWrite 0x01C 48) ∧
    RefusedAccess plain.cfg (memRead 0x028) ∧ ¬ RefusedAccess plain.cfg (memRead 0x024) ∧
    ¬ RefusedAccess plain.cfg (memRead 0x4BC) := by
  refine ⟨by decide, by simp [RefusedAccess], by simp [RefusedAccess], by simp [RefusedAccess], ?_, ?_,
    ?_, ?_, ?_⟩
  · simp [RefusedAccess, memWrite, Config.rxCap, plain, box, Config.default]
  · simp only [RefusedAccess, memWrite, Mapped]; decide
  · refine .inr (.inr ?_)
    rintro ⟨-, h⟩
    simp at h
    omega
  · simp only [RefusedAccess, memRead, Mapped]; decide
  · simp only [RefusedAccess, memRead, not_or, not_not]
    exact ⟨trivial, by decide, by decide, .inr (.inl ⟨47, by decide, by decide⟩)⟩

/-- The first and the last register. -/
theorem witness_RegisterReads :
    (pending (memRead 0x000)).cfg.legal = true ∧ (0x000#13).toNat % 4 = 0 ∧
    (0x000#13).toNat < 0x28 ∧ (pending (memRead 0x000)).port = [.access (.read .w32 0x000)] ∧
    (0x024#13).toNat % 4 = 0 ∧ (0x024#13).toNat < 0x28 ∧
    (pending (memRead 0x024)).port = [.access (.read .w32 0x024)] := by decide

/-- The last slot of each buffer. -/
theorem witness_BufferReads :
    (pending (memRead 0x4BC)).cfg.legal = true ∧
    (47 < plain.cfg.rxCap ∧ (0x4BC#13).toNat = 0x400 + 4 * 47) ∧
    (15 < plain.cfg.maxWords ∧ (0x83C#13).toNat = 0x800 + 4 * 15) ∧
    (15 < plain.cfg.maxParams ∧ (0xC3C#13).toNat = 0xC00 + 4 * 15) ∧
    (49 < plain.cfg.txCap ∧ (0x10C4#13).toNat = 0x1000 + 4 * 49) := by decide

/-- RXLEN at its limit, and the last slots of RXBUF and PARAM. -/
theorem witness_WritesStoreUsedBits :
    (pending (memWrite 0x01C 48)).Inv ∧ (0x01C#13).toNat ≠ 0x008 ∧
    ¬ ReadOnlyOffset (0x01C#13).toNat ∧ ¬ RefusedAccess plain.cfg (memWrite 0x01C 48) ∧
    (¬ ReadOnlyOffset (0x4BC#13).toNat ∧ ¬ RefusedAccess plain.cfg (memWrite 0x4BC 0xFFFF)) ∧
    (¬ ReadOnlyOffset (0xC3C#13).toNat ∧ ¬ RefusedAccess plain.cfg (memWrite 0xC3C 0xFFFFF)) ∧
    ¬ ReadOnlyOffset (0x004#13).toNat ∧ ¬ RefusedAccess plain.cfg (memWrite 0x004 0xFF) := by
  refine ⟨box_inv _ _ _ _ (by decide) (by decide) (by decide), by decide, ?_, ?_, ⟨?_, ?_⟩, ⟨?_, ?_⟩,
    ?_, ?_⟩
  · unfold ReadOnlyOffset; decide
  · simp only [RefusedAccess, memWrite, Mapped]; decide
  · unfold ReadOnlyOffset; decide
  · simp only [RefusedAccess, memWrite, not_or, not_not]
    exact ⟨trivial, trivial, by decide, ⟨by decide, .inr (.inl ⟨47, by decide, by decide⟩)⟩, by decide⟩
  · unfold ReadOnlyOffset; decide
  · simp only [RefusedAccess, memWrite, not_or, not_not]
    exact ⟨trivial, trivial, by decide, ⟨by decide, .inr (.inr (.inr (.inl ⟨15, by decide, by decide⟩)))⟩,
      by decide⟩
  · unfold ReadOnlyOffset; decide
  · simp only [RefusedAccess, memWrite, Mapped]; decide

/-- CAPS, and the last slots of PAYLOAD and TXBUF. -/
theorem witness_ReadOnlyWritesAreIgnored :
    (pending (memWrite 0x024 0)).cfg.legal = true ∧
    (Mapped plain.cfg (0x024#13).toNat ∧ ReadOnlyOffset (0x024#13).toNat) ∧
    (Mapped plain.cfg (0x83C#13).toNat ∧ ReadOnlyOffset (0x83C#13).toNat) ∧
    (Mapped plain.cfg (0x10C4#13).toNat ∧ ReadOnlyOffset (0x10C4#13).toNat) ∧
    (pending (memWrite 0x024 0)).port = [.access (.write .w32 0xF#4 0x024#13 0)] := by
  refine ⟨by decide, ⟨⟨by decide, .inl (by decide)⟩, ?_⟩,
    ⟨⟨by decide, .inr (.inr (.inl ⟨15, by decide, by decide⟩))⟩, ?_⟩,
    ⟨⟨by decide, .inr (.inr (.inr (.inr ⟨49, by decide, by decide⟩)))⟩, ?_⟩, by decide⟩ <;>
  · unfold ReadOnlyOffset; decide

/-- A read, and a write that is repeated. -/
theorem witness_ReadsAndRepeatedWritesAreIdempotent :
    (box [] 0 [] [.access (.read .w64 0x1FFF)]).port = [.access (.read .w64 0x1FFF)] ∧
    (0x01C#13).toNat ≠ 0x008 ∧
    (box [] 0 [] [.access (.write .w32 0xF 0x01C 48), .access (.write .w32 0xF 0x01C 48)]).port =
      [.access (.write .w32 0xF 0x01C 48), .access (.write .w32 0xF 0x01C 48)] := by decide

theorem witness_LaterEventsHaveNoInfluence :
    ∃ t, step { plain with port := [.access (cmdWrite 0x020000BE)] } = .next t := ⟨_, rfl⟩

theorem witness_IdleKeepsState : plain.port = [] := rfl

theorem witness_ResetRegisterValues :
    (box frameG 9 [] [.reset, .reset]).port = [.reset, .reset] ∧
    (box frameG 9 [] [.reset, .reset]).cfg.legal = true := by decide

theorem witness_ResetAbandonsCommand :
    (box [] 0 [] [.resetDuring 0x04100000]).port = [.resetDuring 0x04100000] := rfl

/-- The smallest and the largest build of R7. -/
theorem witness_ResetHasInvariant :
    ({ maxWords := 1, maxParams := 0 } : Config).legal = true ∧
    ({ maxWords := 85, maxParams := 84 } : Config).legal = true := by decide

theorem witness_StepKeepsInvariant :
    (pending (memWrite 0x01C 48)).Inv ∧ ∃ t, step (pending (memWrite 0x01C 48)) = .next t :=
  ⟨box_inv _ _ _ _ (by decide) (by decide) (by decide), ⟨_, rfl⟩⟩

theorem witness_InvariantRunsAreSafe : (box frameG 9 [] [.access (cmdWrite 0x06030000)]).Inv :=
  box_inv _ _ _ _ (by decide) (by decide) (by decide)

theorem witness_ParametersNeverChange : ∃ t, step (box [] 0 [] [.reset]) = .next t := ⟨_, rfl⟩

theorem witness_AssemblerNeverEmitsIllegalWords :
    MnemonicForm (.crcBytes [0xFF]) ∧
    assemble Config.default (.crcBytes [0xFF]) = some [cmdWrite 0x01000000, cmdWrite 0x020000FF] ∧
    cmdWrite 0x020000FF ∈ [cmdWrite 0x01000000, cmdWrite 0x020000FF] := by
  refine ⟨trivial, by decide, by decide⟩

/-- A frame that fills RXBUF. -/
theorem witness_RxLoadFillsRxbuf : plain.Inv ∧ (copies 16).length ≤ plain.cfg.rxCap :=
  ⟨box_inv _ _ _ _ (by decide) (by decide) (by decide), by decide⟩

end Sys2Proof.Machine.Tests
end

section
/-! PROOFS of the family 00_scope: what a command publishes depends on its operands only (R6), and no step changes the parameters (R7, R30). -/

namespace Sys2Proof.Machine

/-! ### The parameters (R7, R30) -/

theorem targetAt_caps (c : Config) : targetAt c 0x024#13 = some .caps := rfl

theorem readAt_caps (s : State) : s.readAt 0x024#13 = some (capsWord s.cfg) := by
  simp [State.readAt, targetAt_caps, State.readTarget]

/-- Whatever event a step performs, the parameters stay. -/
theorem step_cfg {s t : State} (h : step s = .next t) : t.cfg = s.cfg := by
  obtain ⟨-, e⟩ | ⟨_, _, _, _, -, e⟩ | ⟨_, _, _, _, _, _, -, -, e⟩ | ⟨_, v, rest, u, -, -, -, -, e⟩ |
    ⟨_, _, _, -, hu, e⟩ | ⟨_, -, e⟩ := step_cases s
  all_goals obtain rfl := Host.Outcome.next.inj (e.symm.trans h)
  · rfl
  · rfl
  · rfl
  · exact (writeTarget_keeps (s.setPort rest) v u).1
  · exact (runCommand_keeps hu).1
  · rfl

/-- Settles O52: `CAPS` reads as a function of the parameters, which every step keeps. -/
theorem parametersNeverChange : Obligations.ParametersNeverChange := by
  intro s t h
  have hc := step_cfg h
  exact ⟨hc, by rw [readAt_caps, readAt_caps, hc]⟩

/-! ### What the frame commands write does not depend on what the buffers held -/

/-- The slots of the frame FRAME_ENCODE writes do not show the old contents of TXBUF (R130). -/
theorem readSlot_encodeFrame_congr (param : List Half) {m : Nat} (op16 : Half) {tx tx' : List Byte}
    (h : 2 + 3 * m ≤ tx.length) (h' : 2 + 3 * m ≤ tx'.length) {k : Nat} (hk : k < 2 + 3 * m) :
    readSlot (encodeFrame param m op16 tx) k = readSlot (encodeFrame param m op16 tx') k := by
  obtain hlt | hge := lt_or_ge k 2
  · obtain ⟨h0, h1⟩ := readSlot_encodeFrame_head param m op16 tx (by omega)
    obtain ⟨h0', h1'⟩ := readSlot_encodeFrame_head param m op16 tx' (by omega)
    obtain rfl | rfl : k = 0 ∨ k = 1 := by omega
    · rw [h0, h0']
    · rw [h1, h1']
  · obtain ⟨j, hj⟩ : ∃ j, k = 2 + 3 * j ∨ k = 3 + 3 * j ∨ k = 4 + 3 * j := ⟨(k - 2) / 3, by omega⟩
    obtain ⟨h0, h1, h2⟩ := readSlot_encodeFrame_triplet param m op16 tx h j (by omega)
    obtain ⟨h0', h1', h2'⟩ := readSlot_encodeFrame_triplet param m op16 tx' h' j (by omega)
    obtain rfl | rfl | rfl := hj
    · rw [h0, h0']
    · rw [h1, h1']
    · rw [h2, h2']

/-- TXBUF has room for every frame the parameters allow (R7, R38). -/
theorem State.Inv.frame_fits {s : State} (h : s.Inv) {m : Nat} (hm : m ≤ s.cfg.maxParams) :
    2 + 3 * m ≤ s.mem.txbuf.length := by
  obtain ⟨-, -, -, htx⟩ := (Memory.wf_iff _ _).1 h.mem_wf
  rw [htx, Config.txCap]
  omega

/-- PAYLOAD has room for every response RXLEN admits (R28, R38). -/
theorem State.Inv.payload_fits {s : State} (h : s.Inv) {n : Nat} (hn : s.rxlen.toNat = 3 * n) :
    n ≤ s.mem.payload.length := by
  obtain ⟨-, hpay, -, -⟩ := (Memory.wf_iff _ _).1 h.mem_wf
  have hle := h.rxlen_le
  rw [Config.rxCap] at hle
  omega

/-! ### Command by command -/

/-- The command publishes the same from both states (R6). -/
def PublishesAlike (i : Instr) (s u : State) : Prop :=
  ∀ t v, exec i s = .next t → exec i u = .next v → published i t = published i v

/-- To compare what two runs publish, compare it at the states they are known to end in. -/
theorem publishesAlike_of_exec {i : Instr} {s u t v : State} (ht : exec i s = .next t)
    (hv : exec i u = .next v) (h : published i t = published i v) : PublishesAlike i s u := by
  intro t' v' ht' hv'
  obtain rfl := Host.Outcome.next.inj (ht.symm.trans ht')
  obtain rfl := Host.Outcome.next.inj (hv.symm.trans hv')
  exact h

section
variable {s u : State}

theorem frameEncode_publishesAlike {m : Byte} (hm : m.toNat ≤ s.cfg.maxParams) (op16 : Half)
    (hs : s.Inv) (hu : u.Inv) (h : SameOperands s u) : PublishesAlike (.frameEncode m op16) s u := by
  obtain ⟨hcfg, -, -, -, hparam⟩ := h
  have hm' : m.toNat ≤ u.cfg.maxParams := hcfg ▸ hm
  refine publishesAlike_of_exec (exec_frameEncode hm op16) (exec_frameEncode hm' op16) ?_
  have hslots : ∀ k < 2 + 3 * m.toNat,
      readSlot (encodeFrame s.mem.param m.toNat op16 s.mem.txbuf) k =
        readSlot (encodeFrame u.mem.param m.toNat op16 u.mem.txbuf) k := fun k hk =>
    hparam ▸ readSlot_encodeFrame_congr _ op16 (hs.frame_fits hm) (hu.frame_fits hm') hk
  simpa [published, BitVec.toNat_inj] using hslots

theorem checkWord_publishesAlike (c : Byte) (p : Half) (s u : State) :
    PublishesAlike (.checkWord c p) s u := by
  by_cases h : c = checksum (hiByte p) (loByte p)
  · subst h
    exact publishesAlike_of_exec (exec_checkWord_match p s) (exec_checkWord_match p u) rfl
  · exact publishesAlike_of_exec (exec_checkWord_mismatch h s) (exec_checkWord_mismatch h u) rfl

theorem frameDecode_publishesAlike (n : Byte) (hs : s.Inv) (hu : u.Inv) (h : SameOperands s u) :
    PublishesAlike (.frameDecode n) s u := by
  obtain ⟨-, -, hlen, hrx, -⟩ := h
  by_cases hn : s.rxlen.toNat = 3 * n.toNat
  · have hn' : u.rxlen.toNat = 3 * n.toNat := hlen ▸ hn
    cases hb : firstBadGroup s.mem.rxbuf n.toNat 0 with
    | some i =>
      exact publishesAlike_of_exec (exec_frameDecode_bad hn hb)
        (exec_frameDecode_bad hn' (hrx ▸ hb)) rfl
    | none =>
      refine publishesAlike_of_exec (exec_frameDecode_ok hn hb)
        (exec_frameDecode_ok hn' (hrx ▸ hb)) ?_
      have hslots : ∀ j < n.toNat, readSlot (publish s.mem.rxbuf n.toNat s.mem.payload) j =
          readSlot (publish u.mem.rxbuf n.toNat u.mem.payload) j := by
        intro j hj
        rw [readSlot_publish_lt _ _ _ (hs.payload_fits hn) j hj,
          readSlot_publish_lt _ _ _ (hu.payload_fits hn') j hj, hrx]
      simpa [published, BitVec.toNat_inj] using hslots
  · exact publishesAlike_of_exec (exec_frameDecode_length hn)
      (exec_frameDecode_length (hlen ▸ hn)) rfl

theorem fieldDecode_publishesAlike (f : FieldId) (raw : Half) (h : SameOperands s u) :
    PublishesAlike (.fieldDecode f raw) s u := by
  obtain ⟨-, hctrl, -⟩ := h
  refine publishesAlike_of_exec (exec_fieldDecode f raw s) (exec_fieldDecode f raw u) ?_
  simp [published, hctrl]

end

/-- Settles O33, command by command: CRC_BYTE alone reads a register that an earlier command wrote. -/
theorem publishedResultsArePure : Obligations.PublishedResultsArePure := by
  intro i s u t v hbyte hwf hs hu hsame ht hv
  suffices h : PublishesAlike i s u from h t v ht hv
  cases i with
  | crcInit => exact publishesAlike_of_exec (exec_crcInit s) (exec_crcInit u) rfl
  | crcByte b => exact absurd rfl (hbyte b)
  | crcWord p => exact publishesAlike_of_exec (exec_crcWord p s) (exec_crcWord p u) rfl
  | frameEncode m op16 =>
    exact frameEncode_publishesAlike (by simpa [Instr.wf] using hwf) op16 hs hu hsame
  | checkWord c p => exact checkWord_publishesAlike c p s u
  | frameDecode n => exact frameDecode_publishesAlike n hs hu hsame
  | fieldDecode f raw => exact fieldDecode_publishesAlike f raw hsame

end Sys2Proof.Machine
end

section
/-! PROOFS of the family 10_state: every step keeps the invariant (R25 to R38, R164), what each location reads as and what a write stores (R20 to R34, R64), which commands write CRC (R26), and the reset values (R230). -/

namespace Sys2Proof.Machine

/-! ### Which offsets are mapped (R61, R62) -/

/-- The map's answer at an offset is the location that sits there, and there is one only at a 4-aligned offset. -/
theorem targetAt_eq_some_iff (c : Config) (a : Offset) (t : Target) :
    targetAt c a = some t ↔ a.toNat % 4 = 0 ∧ t.SitsAt c a.toNat := by
  constructor
  · exact fun h => ⟨(targetAt_eq_some h).1, toNat_of_targetAt h⟩
  · rintro ⟨h4, hs⟩
    rw [targetAt, if_pos h4]
    exact (mapAddress_eq_some_iff c _ h4 t).2 hs

/-- One of the ten registers sits at every 4-aligned offset below 0x28. -/
theorem exists_register_sitsAt (c : Config) {a : Nat} (h4 : a % 4 = 0) (ha : a < 0x28) :
    ∃ t : Target, t.SitsAt c a := by
  obtain h | h | h | h | h | h | h | h | h | h : a = 0x000 ∨ a = 0x004 ∨ a = 0x008 ∨ a = 0x00C ∨
      a = 0x010 ∨ a = 0x014 ∨ a = 0x018 ∨ a = 0x01C ∨ a = 0x020 ∨ a = 0x024 := by omega
  exacts [⟨.id, h⟩, ⟨.ctrl, h⟩, ⟨.cmd, h⟩, ⟨.status, h⟩, ⟨.crc, h⟩, ⟨.resultNum, h⟩,
    ⟨.resultDen, h⟩, ⟨.rxlen, h⟩, ⟨.txlen, h⟩, ⟨.caps, h⟩]

/-- In a legal build every mapped offset of R61 has a location. -/
theorem exists_targetAt_of_mapped {c : Config} (hc : c.legal = true) {a : Offset}
    (h : Mapped c a.toNat) : ∃ t, targetAt c a = some t := by
  obtain ⟨hrx, hpay, hpar, htx⟩ := Config.caps_lt hc
  obtain ⟨h4, hreg | ⟨i, hi, ha⟩ | ⟨i, hi, ha⟩ | ⟨j, hj, ha⟩ | ⟨k, hk, ha⟩⟩ := h
  · obtain ⟨t, ht⟩ := exists_register_sitsAt c h4 hreg
    exact ⟨t, (targetAt_eq_some_iff c a t).2 ⟨h4, ht⟩⟩
  · exact ⟨.rxbuf i, (targetAt_eq_some_iff c a _).2 ⟨h4, hi, by omega, ha⟩⟩
  · exact ⟨.payload i, (targetAt_eq_some_iff c a _).2 ⟨h4, hi, by omega, ha⟩⟩
  · exact ⟨.param j, (targetAt_eq_some_iff c a _).2 ⟨h4, hj, by omega, ha⟩⟩
  · exact ⟨.txbuf k, (targetAt_eq_some_iff c a _).2 ⟨h4, hk, by omega, ha⟩⟩

/-! ### Updates that keep the invariant -/

section
variable {s : State} (h : s.Inv)
include h

theorem State.Inv.maxWords_pos : 0 < s.cfg.maxWords :=
  ((Config.legal_iff _).1 h.cfg_legal).1

theorem State.Inv.setPort (v : List HostEvent) : (s.setPort v).Inv := { h with }

theorem State.Inv.respond (r : PortResponse) : (s.respond r).Inv := { h with }

theorem State.Inv.setCtrl (v : BitVec 4) : (s.setCtrl v).Inv := { h with }

theorem State.Inv.setCrc (v : Byte) : (s.setCrc v).Inv := { h with }

theorem State.Inv.setRxlen {v : Byte} (hv : v.toNat ≤ s.cfg.rxCap) : (s.setRxlen v).Inv :=
  { h with rxlen_le := hv }

theorem State.Inv.setTxlen {v : Byte} {m : Nat} (hm : m ≤ s.cfg.maxParams)
    (hv : v.toNat = 2 + 3 * m) : (s.setTxlen v).Inv :=
  { h with txlen_shape := .inr ⟨m, hm, hv⟩ }

theorem State.Inv.setResult {num den : Word}
    (hnum : -2949120 ≤ sint32 num ∧ sint32 num ≤ 8519505) (hden : den ∈ resultDens) :
    (s.setResult num den).Inv :=
  { h with num_range := hnum, den_mem := hden }

theorem State.Inv.setCount {n : Byte} (hn : n.toNat ≤ s.cfg.maxWords) : (s.setCount n).Inv :=
  { h with count_le := hn }

theorem State.Inv.succeed : s.succeed.Inv :=
  { h with index_zero := fun _ => rfl, index_lt := h.maxWords_pos }

/-- A failure that names no DataWord beyond `MAX_WORDS` may be recorded: only ChecksumError names one at all (R203). -/
theorem State.Inv.raise {f : Failure} (hf : f.index.toNat < s.cfg.maxWords) : (s.raise f).Inv :=
  { h with
    index_zero := fun hk => by
      cases f with
      | checksumError i => exact absurd rfl hk
      | lengthError => rfl
      | illegalCommand => rfl
    index_lt := hf }

/-! The buffer updates of the commands and of the port keep every array's length. -/

theorem State.Inv.setRxbuf_writeSlot (i : Nat) (v : Byte) :
    (s.setRxbuf (writeSlot s.mem.rxbuf i v)).Inv :=
  { h with mem_wf := Memory.wf_rxbuf_slot h.mem_wf i v }

theorem State.Inv.setParam_writeSlot (j : Nat) (v : Half) :
    (s.setParam (writeSlot s.mem.param j v)).Inv :=
  { h with mem_wf := Memory.wf_param_slot h.mem_wf j v }

theorem State.Inv.setTxbuf_encodeFrame (m : Nat) (op16 : Half) :
    (s.setTxbuf (encodeFrame s.mem.param m op16 s.mem.txbuf)).Inv :=
  { h with mem_wf := Memory.wf_encodeFrame h.mem_wf m op16 }

theorem State.Inv.setPayload_publish (n : Nat) :
    (s.setPayload (publish s.mem.rxbuf n s.mem.payload)).Inv :=
  { h with mem_wf := Memory.wf_publish h.mem_wf n }

/-- A frame whose length RXLEN confirms has at most `MAX_WORDS` DataWords (R28, R142). -/
theorem State.Inv.frameWords_le {n : Nat} (hn : s.rxlen.toNat = 3 * n) : n ≤ s.cfg.maxWords := by
  have hle := h.rxlen_le
  rw [Config.rxCap] at hle
  omega

end

/-! ### FIELD_DECODE's result (R164) -/

/-- `num` of R163 lies in the range of R164: only `co2_temp` reaches its ends, and the two fields with a factor are never signed. -/
theorem fieldNum_range (ctrl : BitVec 4) (f : FieldId) (raw : Half) :
    -2949120 ≤ fieldNum ctrl f raw ∧ fieldNum ctrl f raw ≤ 8519505 := by
  have hv := fieldValue_range ctrl f raw
  have hz := zext16_range raw
  have htemp : fieldNum ctrl .co2Temp raw = 175 * zext16 raw + -2949120 := rfl
  have hrh : fieldNum ctrl .co2Rh raw = 100 * zext16 raw + 0 := rfl
  cases f with
  | co2Temp => omega
  | co2Rh => omega
  | _ => simp only [fieldNum, fieldRow]; omega

theorem fieldDen_mem_resultDens (f : FieldId) : fieldDen f ∈ resultDens := by
  cases f <;> decide

/-! ### Every step keeps the invariant -/

/-- Command by command: each update it makes is one of the above, and what it records is in range. -/
theorem exec_keeps_inv {i : Instr} {s t : State} (h : s.Inv) (e : exec i s = .next t) : t.Inv := by
  obtain ⟨-, e'⟩ | ⟨_, -, e'⟩ | ⟨_, -, e'⟩ | ⟨m, op16, -, hm, e'⟩ | ⟨_, _, -, -, e'⟩ |
    ⟨_, _, -, -, e'⟩ | ⟨_, _, -, -, e'⟩ | ⟨_, -, -, e'⟩ | ⟨n, k, -, hn, hk, e'⟩ | ⟨n, -, hn, -, e'⟩ |
    ⟨f, raw, -, e'⟩ := exec_cases i s
  all_goals obtain rfl := Host.Outcome.next.inj (e'.symm.trans e)
  · exact (h.setCrc _).succeed
  · exact (h.setCrc _).succeed
  · exact (h.setCrc _).succeed
  · have hlen : (BitVec.ofNat 8 (2 + 3 * m.toNat)).toNat = 2 + 3 * m.toNat := by
      obtain ⟨-, -, hcap, -⟩ := Config.caps_lt h.cfg_legal
      rw [BitVec.toNat_ofNat]
      omega
    exact ((h.setTxbuf_encodeFrame _ op16).setTxlen hm hlen).succeed
  · exact h.raise h.maxWords_pos
  · exact h.succeed
  · exact h.raise h.maxWords_pos
  · exact (h.setCount (Nat.zero_le _)).raise h.maxWords_pos
  · have hindex : (BitVec.ofNat 8 k).toNat < s.cfg.maxWords := by
      obtain ⟨-, hkn, -, -⟩ := (firstBadGroup_eq_some_iff _ _ _ _).1 hk
      have hle := h.frameWords_le hn
      have hmod := Nat.mod_le k (2 ^ 8)
      rw [BitVec.toNat_ofNat]
      omega
    exact (h.setCount (Nat.zero_le _)).raise hindex
  · exact ((h.setPayload_publish _).setCount (h.frameWords_le hn)).succeed
  · have hr := fieldNum_range s.ctrl f raw
    have hnum := sint32_toPattern32 (fieldNum s.ctrl f raw) (by omega) (by omega)
    exact (h.setResult (by rwa [hnum]) (fieldDen_mem_resultDens f)).succeed

theorem runCommand_keeps_inv {w : Word} {s t : State} (h : s.Inv) (e : runCommand w s = .next t) :
    t.Inv := by
  obtain ⟨i, -, e'⟩ | ⟨_, -, e'⟩ := runCommand_cases w s
  · exact exec_keeps_inv h (e'.symm.trans e)
  · obtain rfl := Host.Outcome.next.inj (e'.symm.trans e)
    exact h.raise h.maxWords_pos

/-- The low byte of a word never exceeds the word. -/
theorem toNat_lowByte_le (v : Word) : (v.extractLsb' 0 8).toNat ≤ v.toNat := by
  rw [BitVec.extractLsb'_toNat, Nat.shiftRight_zero]
  exact Nat.mod_le _ _

theorem writeTarget_keeps_inv {s : State} (h : s.Inv) {v : Word} {t : Target}
    (hv : t = .rxlen → v.toNat ≤ s.cfg.rxCap) : (s.writeTarget v t).Inv := by
  cases t with
  | ctrl => exact h.setCtrl _
  | rxlen => exact h.setRxlen ((toNat_lowByte_le v).trans (hv rfl))
  | rxbuf i => exact h.setRxbuf_writeSlot i _
  | param j => exact h.setParam_writeSlot j _
  | _ => exact h

theorem State.atReset_inv {c : Config} (hc : c.legal = true) (k : Nat) : (State.atReset c k).Inv where
  cfg_legal := hc
  mem_wf := State.atReset_mem_wf c k
  rxlen_le := Nat.zero_le _
  txlen_shape := .inl rfl
  den_mem := by
    change 1#32 ∈ resultDens
    decide
  num_range := by
    change -2949120 ≤ sint32 0#32 ∧ sint32 0#32 ≤ 8519505
    decide
  count_le := Nat.zero_le _
  index_zero := fun _ => rfl
  index_lt := ((Config.legal_iff c).1 hc).1

theorem State.Inv.resetNow {s : State} (h : s.Inv) : s.resetNow.Inv :=
  (State.atReset_inv h.cfg_legal s.resets).setPort s.port

/-- Settles O50, one case per event of the port. -/
theorem stepKeepsInvariant : Obligations.StepKeepsInvariant := by
  intro s t h e
  obtain ⟨-, e'⟩ | ⟨_, _, rest, _, -, e'⟩ | ⟨_, _, _, _, rest, _, -, -, e'⟩ |
    ⟨_, v, rest, u, -, -, -, hv, e'⟩ | ⟨w, rest, u, -, hu, e'⟩ | ⟨rest, -, e'⟩ := step_cases s
  all_goals obtain rfl := Host.Outcome.next.inj (e'.symm.trans e)
  · exact h
  · exact (h.setPort rest).respond _
  · exact (h.setPort rest).respond _
  · exact (writeTarget_keeps_inv (h.setPort rest) hv).respond _
  · exact (runCommand_keeps_inv (h.setPort rest) hu).respond _
  · exact (h.setPort rest).resetNow

/-! ### Runs -/

/-- Every step completes (R209, R240). -/
theorem step_next (s : State) : ∃ t, step s = .next t := by
  obtain ⟨-, e⟩ | ⟨_, _, _, _, -, e⟩ | ⟨_, _, _, _, _, _, -, -, e⟩ | ⟨_, _, _, _, -, -, -, -, e⟩ |
    ⟨_, _, _, -, -, e⟩ | ⟨_, -, e⟩ := step_cases s
  all_goals exact ⟨_, e⟩

theorem runSteps_next (k : Nat) (s : State) : ∃ t, runSteps k s = .next t := by
  induction k generalizing s with
  | zero => exact ⟨s, runSteps_zero s⟩
  | succ k ih =>
    obtain ⟨t, ht⟩ := step_next s
    rw [runSteps_succ ht]
    exact ih t

/-- Settles O51: every run goes on, and what every step keeps holds along it. -/
theorem invariantRunsAreSafe : Obligations.InvariantRunsAreSafe := by
  intro s h k
  obtain ⟨t, ht⟩ := runSteps_next k s
  exact ⟨t, ht, runSteps_keeps stepKeepsInvariant k s t h ht⟩

/-! ### Which commands write CRC (R26) -/

/-- The three CRC commands (R112 to R114). -/
def WritesCrc (i : Instr) : Prop :=
  i = .crcInit ∨ (∃ b, i = .crcByte b) ∨ ∃ p, i = .crcWord p

theorem exec_crc {i : Instr} {s t : State} (e : exec i s = .next t) :
    WritesCrc i ∨ t.crc = s.crc := by
  obtain ⟨hi, -⟩ | ⟨b, hi, -⟩ | ⟨p, hi, -⟩ | h := exec_cases i s
  · exact .inl (.inl hi)
  · exact .inl (.inr (.inl ⟨b, hi⟩))
  · exact .inl (.inr (.inr ⟨p, hi⟩))
  · right
    obtain ⟨_, _, -, -, e'⟩ | ⟨_, _, -, -, e'⟩ | ⟨_, _, -, -, e'⟩ | ⟨_, _, -, -, e'⟩ | ⟨_, -, -, e'⟩ |
      ⟨_, _, -, -, -, e'⟩ | ⟨_, -, -, -, e'⟩ | ⟨_, _, -, e'⟩ := h
    all_goals
      obtain rfl := Host.Outcome.next.inj (e'.symm.trans e)
      rfl

theorem runCommand_crc {w : Word} {s t : State} (e : runCommand w s = .next t) :
    (∃ i, decode s.cfg w = .legal i ∧ WritesCrc i) ∨ t.crc = s.crc := by
  obtain ⟨i, hi, e'⟩ | ⟨_, -, e'⟩ := runCommand_cases w s
  · exact (exec_crc (e'.symm.trans e)).imp_left fun hw => ⟨i, hi, hw⟩
  · obtain rfl := Host.Outcome.next.inj (e'.symm.trans e)
    exact .inr rfl

theorem writeTarget_crc (s : State) (v : Word) (t : Target) : (s.writeTarget v t).crc = s.crc := by
  cases t <;> rfl

/-- Settles O32: of the events of the port only a reset and a CMD write reach CRC, and of the commands only the three CRC commands. -/
theorem onlyCrcCommandsWriteCrc : Obligations.OnlyCrcCommandsWriteCrc := by
  intro s t e hne
  obtain ⟨-, e'⟩ | ⟨_, _, _, _, -, e'⟩ | ⟨_, _, _, _, _, _, -, -, e'⟩ |
    ⟨_, v, rest, u, -, -, -, -, e'⟩ | ⟨w, rest, u, hp, hu, e'⟩ | ⟨rest, hp, -⟩ := step_cases s
  case inr.inr.inr.inr.inr =>
    obtain hp | ⟨w, hp⟩ := hp
    · exact ⟨_, rest, hp, .inl rfl⟩
    · exact ⟨_, rest, hp, .inr (.inl ⟨w, rfl⟩)⟩
  all_goals obtain rfl := Host.Outcome.next.inj (e'.symm.trans e)
  · exact absurd rfl hne
  · exact absurd rfl hne
  · exact absurd rfl hne
  · exact absurd (writeTarget_crc (s.setPort rest) v u) hne
  · obtain ⟨i, hd, hi⟩ | hcrc := runCommand_crc hu
    · refine ⟨_, rest, hp, .inr (.inr ⟨w, rfl, ?_⟩)⟩
      obtain rfl | ⟨b, rfl⟩ | ⟨p, rfl⟩ := hi
      · exact .inl hd
      · exact .inr (.inl ⟨b, hd⟩)
      · exact .inr (.inr ⟨p, hd⟩)
    · exact absurd hcrc hne

/-! ### What the registers and buffers read as -/

/-- STATUS as a number (R25). -/
theorem toNat_statusWord (st : Status) :
    st.toWord.toNat = st.count.toNat * 2 ^ 16 + st.errIndex.toNat * 2 ^ 8 + st.err.code.toNat := by
  simp only [Status.toWord, toNat_append_add, BitVec.toNat_ofNat]
  omega

/-- CAPS as a number (R30). -/
theorem toNat_capsWord {c : Config} (hc : c.legal = true) :
    (capsWord c).toNat = c.maxParams * 2 ^ 8 + c.maxWords := by
  obtain ⟨-, hw, hp⟩ := (Config.legal_iff c).1 hc
  simp only [capsWord, toNat_append_add, BitVec.toNat_ofNat]
  omega

/-- Settles O38: a read answers the value of the register that sits at the offset, register by register. -/
theorem registerReads : Obligations.RegisterReads := by
  intro s a rest hc h4 ha hp
  obtain ⟨t, ht⟩ := exists_register_sitsAt s.cfg h4 ha
  refine ⟨s.readTarget t, step_read hp ((targetAt_eq_some_iff _ _ _).2 ⟨h4, ht⟩), ?_⟩
  cases t with
  | status =>
    have ha' : a.toNat = 0x00C := ht
    simp only [ha', State.readTarget, toNat_statusWord]
    cases s.status.err <;> simp [ErrKind.code]
  | caps => simp [show a.toNat = 0x024 from ht, State.readTarget, toNat_capsWord hc]
  | rxbuf i | payload i | param i | txbuf i => exact absurd ht.2.2 (by omega)
  | _ =>
    simp [show a.toNat = _ from ht, State.readTarget, idValue, BitVec.toNat_setWidth_of_le,
      -BitVec.toNat_setWidth]

/-- Settles O39: the slot that sits at the offset is below 256, so its range holds it. -/
theorem bufferReads : Obligations.BufferReads := by
  intro s a rest i hc hp
  obtain ⟨hrx, hpay, hpar, htx⟩ := Config.caps_lt hc
  have answers : ∀ t : Target, a.toNat % 4 = 0 → t.SitsAt s.cfg a.toNat →
      step s = .next { s with port := rest, resp := some (.readOk (s.readTarget t)) } :=
    fun t h4 ht => step_read hp ((targetAt_eq_some_iff _ _ _).2 ⟨h4, ht⟩)
  refine ⟨fun hi ha => ?_, fun hi ha => ?_, fun hi ha => ?_, fun hi ha => ?_⟩
  · exact ⟨_, BitVec.toNat_setWidth_of_le (by decide), answers (.rxbuf i) (by omega) ⟨hi, by omega, ha⟩⟩
  · exact ⟨_, BitVec.toNat_setWidth_of_le (by decide), answers (.payload i) (by omega) ⟨hi, by omega, ha⟩⟩
  · exact ⟨_, BitVec.toNat_setWidth_of_le (by decide), answers (.param i) (by omega) ⟨hi, by omega, ha⟩⟩
  · exact ⟨_, BitVec.toNat_setWidth_of_le (by decide), answers (.txbuf i) (by omega) ⟨hi, by omega, ha⟩⟩

/-! ### What a write stores -/

@[simp] theorem readTarget_setPort (s : State) (p : List HostEvent) (t : Target) :
    (s.setPort p).readTarget t = s.readTarget t := by
  cases t <;> rfl

@[simp] theorem readTarget_respond (s : State) (r : PortResponse) (t : Target) :
    (s.respond r).readTarget t = s.readTarget t := by
  cases t <;> rfl

/-- A location that is neither CMD nor read-only is CTRL, RXLEN, or a slot of RXBUF or PARAM (R64). -/
theorem storing_of_sitsAt {c : Config} {a : Nat} {t : Target} (ht : t.SitsAt c a) (hcmd : a ≠ 0x008)
    (hro : ¬ ReadOnlyOffset a) :
    (t = .ctrl ∧ a = 0x004) ∨ (t = .rxlen ∧ a = 0x01C) ∨
      (∃ i, t = .rxbuf i ∧ i < c.rxCap ∧ i < 256 ∧ a = 0x400 + 4 * i) ∨
      ∃ j, t = .param j ∧ j < c.maxParams ∧ j < 256 ∧ a = 0xC00 + 4 * j := by
  cases t with
  | ctrl => exact .inl ⟨rfl, ht⟩
  | rxlen => exact .inr (.inl ⟨rfl, ht⟩)
  | rxbuf i => exact .inr (.inr (.inl ⟨i, rfl, ht⟩))
  | param j => exact .inr (.inr (.inr ⟨j, rfl, ht⟩))
  | cmd => exact absurd ht hcmd
  | _ =>
    simp only [Target.SitsAt] at ht
    exact absurd (by unfold ReadOnlyOffset; omega) hro

/-- What a legal write to the location at offset `a` leaves in `t` of the bits of `v` (R64). -/
def StoredBits (a : Nat) (v : Word) (t : State) : Prop :=
  (a = 0x004 → t.ctrl.toNat = v.toNat % 2 ^ 4) ∧
  (a = 0x01C → t.rxlen.toNat = v.toNat) ∧
  (∀ i, a = 0x400 + 4 * i → i < 256 → (readSlot t.mem.rxbuf i).toNat = v.toNat % 2 ^ 8) ∧
  ∀ j, a = 0xC00 + 4 * j → (readSlot t.mem.param j).toNat = v.toNat % 2 ^ 16

theorem writeTarget_storedBits {s : State} (h : s.Inv) {a : Nat} {v : Word} {t : Target}
    (ht : t.SitsAt s.cfg a) (hcmd : a ≠ 0x008) (hro : ¬ ReadOnlyOffset a)
    (hv : t = .rxlen → v.toNat ≤ s.cfg.rxCap) : StoredBits a v (s.writeTarget v t) := by
  obtain ⟨hrx, -, hpar, -⟩ := (Memory.wf_iff _ _).1 h.mem_wf
  have low : ∀ n, (v.extractLsb' 0 n).toNat = v.toNat % 2 ^ n := fun n => by
    rw [BitVec.extractLsb'_toNat, Nat.shiftRight_zero]
  obtain ⟨rfl, ha⟩ | ⟨rfl, ha⟩ | ⟨i, rfl, hi, hi', ha⟩ | ⟨j, rfl, hj, hj', ha⟩ :=
    storing_of_sitsAt ht hcmd hro
  · exact ⟨fun _ => low 4, by omega, by omega, by omega⟩
  · have hcap := (Config.caps_lt h.cfg_legal).1
    have hle := hv rfl
    exact ⟨by omega, fun _ => (low 8).trans (Nat.mod_eq_of_lt (by omega)), by omega, by omega⟩
  · refine ⟨by omega, by omega, fun i' ha' _ => ?_, by omega⟩
    obtain rfl : i = i' := by omega
    exact (congrArg BitVec.toNat (readSlot_writeSlot_self _ i _ (by omega))).trans (low 8)
  · refine ⟨by omega, by omega, by omega, fun j' ha' => ?_⟩
    obtain rfl : j = j' := by omega
    exact (congrArg BitVec.toNat (readSlot_writeSlot_self _ j _ (by omega))).trans (low 16)

/-- Every offset but the written one reads as before: two offsets never share a location (R61). -/
theorem readAt_writeTarget_ne (s : State) (v : Word) {a b : Offset} {t : Target}
    (ht : targetAt s.cfg a = some t) (hne : b ≠ a) : (s.writeTarget v t).readAt b = s.readAt b := by
  refine readAt_congr (writeTarget_keeps s v t).1 fun u hu => readTarget_writeTarget_ne s v ?_
  rintro rfl
  exact hne (targetAt_inj hu ht)

/-- A whole write that is not refused goes to a location, and RXLEN's limit is met (R65 to R67). -/
theorem targetAt_of_not_refused {c : Config} (hc : c.legal = true) {a : Offset} {v : Word}
    (h : ¬ RefusedAccess c (.write .w32 0xF#4 a v)) :
    ∃ t, targetAt c a = some t ∧ (t = .rxlen → v.toNat ≤ c.rxCap) := by
  simp only [RefusedAccess, not_or, not_not, not_and, not_lt] at h
  obtain ⟨-, -, -, hmap, hrx⟩ := h
  obtain ⟨t, ht⟩ := exists_targetAt_of_mapped hc hmap
  refine ⟨t, ht, ?_⟩
  rintro rfl
  exact hrx (toNat_of_targetAt ht)

/-- Settles O40: the write goes to the location at its offset, which keeps the used bits. -/
theorem writesStoreUsedBits : Obligations.WritesStoreUsedBits := by
  intro s a v rest h hcmd hro hok hp
  obtain ⟨t, ht, hv⟩ := targetAt_of_not_refused h.cfg_legal hok
  have hs := toNat_of_targetAt ht
  have hne : t ≠ .cmd := by
    rintro rfl
    exact hcmd hs
  obtain ⟨hcfg, hresets, hport, -⟩ := writeTarget_keeps (s.setPort rest) v t
  obtain ⟨hctrl, hrxlen, hrxbuf, hparam⟩ :=
    writeTarget_storedBits (h.setPort rest) (v := v) hs hcmd hro hv
  refine ⟨_, step_write hp ht hv hne, hport, rfl, hcfg, hresets, hctrl, hrxlen, hrxbuf, hparam,
    fun b hb => ?_⟩
  calc (((s.setPort rest).writeTarget v t).respond .writeOk).readAt b
      = ((s.setPort rest).writeTarget v t).readAt b := readAt_congr rfl fun u _ => by simp
    _ = (s.setPort rest).readAt b := readAt_writeTarget_ne _ v ht hb
    _ = s.readAt b := readAt_congr rfl fun u _ => by simp

/-! ### Reset, and the command of a CMD write -/

/-- STATUS reads 0 after a reset (R230). -/
theorem statusWord_reset : (Status.mk .none 0 0).toWord = 0 := by decide

/-- Settles O46: the registers of R230 in the state a reset leaves. -/
theorem resetRegisterValues : Obligations.ResetRegisterValues := by
  intro s rest hp hc
  exact ⟨(s.setPort rest).resetNow, step_event hp, rfl, rfl, State.atReset_mem_wf s.cfg s.resets,
    rfl, rfl, congrArg some statusWord_reset, rfl, rfl, rfl, rfl, rfl, capsWord s.cfg, readAt_caps _, toNat_capsWord hc⟩

/-- Settles O35: the CMD write runs its command and completes with it. -/
theorem stepRunsDecodedCommand : Obligations.StepRunsDecodedCommand := by
  intro s w i rest hp hd
  obtain ⟨t, ht⟩ := exec_next i { s with port := rest }
  rw [ht]
  calc step s = completeWrite (runCommand w (s.setPort rest)) :=
        (step_event hp).trans (performAccess_cmdWrite w _)
    _ = completeWrite (exec i (s.setPort rest)) :=
        congrArg completeWrite (runCommand_legal (s := s.setPort rest) hd)
    _ = .next (t.respond .writeOk) := congrArg completeWrite ht

end Sys2Proof.Machine
end

section
/-! PROOFS of the family 20_memory: no command writes an operand (R76), which accesses are refused (R62, R65 to R67), what a write to a read-only location does (R70), which accesses may be repeated (R69), and that no access depends on the ones behind it (R73). -/

namespace Sys2Proof.Machine

/-- Settles O30: the operands are among what a CMD write leaves alone whatever it runs. -/
theorem commandsKeepOperands : Obligations.CommandsKeepOperands := by
  intro w s t h
  obtain ⟨hcfg, hctrl, hrxlen, hrxbuf, hparam, -⟩ := runCommand_keeps h
  exact ⟨hcfg.symm, hctrl.symm, hrxlen.symm, hrxbuf.symm, hparam.symm⟩

/-! ### Which accesses are refused (R62, R65 to R67) -/

/-- An offset where a location sits is one that R62 calls mapped. -/
theorem mapped_of_targetAt {c : Config} {a : Offset} {t : Target} (h : targetAt c a = some t) :
    Mapped c a.toNat := by
  obtain ⟨h4, hs⟩ := (targetAt_eq_some_iff c a t).1 h
  refine ⟨h4, ?_⟩
  cases t with
  | rxbuf i => exact .inr (.inl ⟨i, hs.1, hs.2.2⟩)
  | payload i => exact .inr (.inr (.inl ⟨i, hs.1, hs.2.2⟩))
  | param j => exact .inr (.inr (.inr (.inl ⟨j, hs.1, hs.2.2⟩)))
  | txbuf k => exact .inr (.inr (.inr (.inr ⟨k, hs.1, hs.2.2⟩)))
  | _ => exact .inl (hs.trans_lt (by decide))

/-- RXLEN is the one location at offset 0x01C (R61). -/
theorem eq_rxlen_of_targetAt {c : Config} {a : Offset} {t : Target} (h : targetAt c a = some t)
    (ha : a.toNat = 0x01C) : t = .rxlen := by
  have hr : targetAt c a = some .rxlen := (targetAt_eq_some_iff c a _).2 ⟨by omega, ha⟩
  exact Option.some.inj (h.symm.trans hr)

/-- The block finds a location for a request exactly when none of R65, R66 and R67 refuses it. -/
theorem resolve_ok_iff_not_refused {c : Config} (hc : c.legal = true) (a : HostAccess) :
    (∃ t, resolve c a = .ok t) ↔ ¬ RefusedAccess c a := by
  cases a with
  | read width off =>
    simp only [RefusedAccess, not_or, not_not]
    constructor
    · rintro ⟨t, h⟩
      obtain ⟨hw, ht⟩ := locate_ok h
      exact ⟨eq_of_beq hw, (targetAt_eq_some ht).1, mapped_of_targetAt ht⟩
    · rintro ⟨rfl, -, hm⟩
      obtain ⟨t, ht⟩ := exists_targetAt_of_mapped hc hm
      exact ⟨t, resolve_read_of_ok ht⟩
  | write width lanes off v =>
    constructor
    · rintro ⟨t, h⟩
      obtain ⟨hw, hl, ht, hv⟩ := resolve_write_ok h
      simp only [RefusedAccess, not_or, not_not, not_and, not_lt]
      exact ⟨hw, hl, (targetAt_eq_some ht).1, mapped_of_targetAt ht,
        fun ha => hv (eq_rxlen_of_targetAt ht ha)⟩
    · intro h
      obtain ⟨rfl, rfl⟩ : width = .w32 ∧ lanes = 0xF#4 := by
        simp only [RefusedAccess, not_or, not_not] at h
        exact ⟨h.1, h.2.1⟩
      obtain ⟨t, ht, hv⟩ := targetAt_of_not_refused hc h
      exact ⟨t, resolve_write_of_ok ht hv⟩

theorem resolve_error_of_refused {c : Config} (hc : c.legal = true) {a : HostAccess}
    (h : RefusedAccess c a) : ∃ e, resolve c a = .error e := by
  cases hr : resolve c a with
  | ok t => exact absurd h ((resolve_ok_iff_not_refused hc a).1 ⟨t, hr⟩)
  | error e => exact ⟨e, rfl⟩

/-! ### One equation per way an access can end -/

/-- A refused access answers HostAccessError and does nothing else (R65 to R67). -/
theorem performAccess_of_error {a : HostAccess} {s : State} {e : AccessError}
    (h : resolve s.cfg a = .error e) : performAccess a s = .next (s.respond (errorResponse a)) := by
  cases a <;> simp [performAccess, h, errorResponse]

theorem performAccess_read_of_ok {width : Width} {off : Offset} {s : State} {t : Target}
    (h : resolve s.cfg (.read width off) = .ok t) :
    performAccess (.read width off) s = .next (s.respond (.readOk (s.readTarget t))) := by
  simp [performAccess, h]

theorem performAccess_write_of_store {width : Width} {lanes : BitVec 4} {off : Offset} {v : Word}
    {s : State} {t : Target} (h : resolve s.cfg (.write width lanes off v) = .ok t) (hne : t ≠ .cmd) :
    performAccess (.write width lanes off v) s =
      .next ((s.writeTarget v t).respond .writeOk) := by
  simp [performAccess, h, performWrite, hne, completeWrite]

theorem performAccess_write_of_cmd {width : Width} {lanes : BitVec 4} {off : Offset} {v : Word}
    {s u : State} (h : resolve s.cfg (.write width lanes off v) = .ok .cmd)
    (hu : runCommand v s = .next u) :
    performAccess (.write width lanes off v) s = .next (u.respond .writeOk) := by
  simp [performAccess, h, performWrite, hu, completeWrite]

/-- An access with a location completes without error (R63, R64). -/
theorem performAccess_of_ok {a : HostAccess} {s : State} {t : Target} (h : resolve s.cfg a = .ok t) :
    ∃ u, performAccess a s = .next u ∧
      (u.resp = some .writeOk ∨ ∃ v, u.resp = some (.readOk v)) := by
  cases a with
  | read width off => exact ⟨_, performAccess_read_of_ok h, .inr ⟨_, rfl⟩⟩
  | write width lanes off v =>
    by_cases hc : t = .cmd
    · subst hc
      obtain ⟨u, hu⟩ := runCommand_next v s
      exact ⟨_, performAccess_write_of_cmd h hu, .inl rfl⟩
    · exact ⟨_, performAccess_write_of_store h hc, .inl rfl⟩

/-- Settles O37: a request is refused exactly when the block finds no location for it. -/
theorem refusedAccessesChangeNothing : Obligations.RefusedAccessesChangeNothing := by
  intro s a rest hc hp
  have hstep : step s = performAccess a (s.setPort rest) := step_event hp
  rw [hstep]
  constructor
  · intro h
    obtain ⟨e, he⟩ := resolve_error_of_refused hc h
    exact performAccess_of_error (s := s.setPort rest) he
  · intro h
    obtain ⟨t, ht⟩ := (resolve_ok_iff_not_refused hc a).2 h
    exact performAccess_of_ok (s := s.setPort rest) ht

/-! ### Writes to read-only locations (R70) -/

/-- A location at a read-only offset is neither CMD nor RXLEN, and a write leaves the state as it is. -/
theorem writeTarget_of_readOnly {c : Config} {a : Nat} {t : Target} (ht : t.SitsAt c a)
    (hro : ReadOnlyOffset a) (s : State) (v : Word) :
    t ≠ .cmd ∧ t ≠ .rxlen ∧ s.writeTarget v t = s := by
  unfold ReadOnlyOffset at hro
  cases t with
  | ctrl | cmd | rxlen | rxbuf _ | param _ =>
    simp only [Target.SitsAt] at ht
    omega
  | _ => exact ⟨nofun, nofun, rfl⟩

/-- Settles O41: the location at the offset is one that a write leaves alone. -/
theorem readOnlyWritesAreIgnored : Obligations.ReadOnlyWritesAreIgnored := by
  intro s a v rest hc hm hro hp
  obtain ⟨t, ht⟩ := exists_targetAt_of_mapped hc hm
  obtain ⟨hcmd, hrxlen, hkeep⟩ :=
    writeTarget_of_readOnly (toNat_of_targetAt ht) hro (s.setPort rest) v
  rw [step_write hp ht (fun e => absurd e hrxlen) hcmd, hkeep]
  rfl

/-! ### No event sees the events behind it (R73) -/

theorem writeTarget_setPort (s : State) (p : List HostEvent) (v : Word) (t : Target) :
    (s.setPort p).writeTarget v t = (s.writeTarget v t).setPort p := by
  cases t <;> rfl

/-- Command by command: neither what decides its outcome nor what it writes is the port. -/
theorem exec_setPort {i : Instr} {s t : State} (p : List HostEvent) (h : exec i s = .next t) :
    exec i (s.setPort p) = .next (t.setPort p) := by
  obtain ⟨rfl, e⟩ | ⟨b, rfl, e⟩ | ⟨w, rfl, e⟩ | ⟨m, op16, rfl, hm, e⟩ | ⟨m, op16, rfl, hm, e⟩ |
    ⟨c, w, rfl, rfl, e⟩ | ⟨c, w, rfl, hc, e⟩ | ⟨n, rfl, hn, e⟩ | ⟨n, k, rfl, hn, hk, e⟩ |
    ⟨n, rfl, hn, hk, e⟩ | ⟨f, raw, rfl, e⟩ := exec_cases i s
  all_goals obtain rfl := Host.Outcome.next.inj (e.symm.trans h)
  · exact exec_crcInit (s.setPort p)
  · exact exec_crcByte b (s.setPort p)
  · exact exec_crcWord w (s.setPort p)
  · exact exec_frameEncode (s := s.setPort p) hm op16
  · exact exec_frameEncode_above (s := s.setPort p) (not_le.2 hm) op16
  · exact exec_checkWord_match w (s.setPort p)
  · exact exec_checkWord_mismatch hc (s.setPort p)
  · exact exec_frameDecode_length (s := s.setPort p) hn
  · exact exec_frameDecode_bad (s := s.setPort p) hn hk
  · exact exec_frameDecode_ok (s := s.setPort p) hn hk
  · exact exec_fieldDecode f raw (s.setPort p)

theorem runCommand_setPort {w : Word} {s t : State} (p : List HostEvent)
    (h : runCommand w s = .next t) : runCommand w (s.setPort p) = .next (t.setPort p) := by
  obtain ⟨i, hd, e⟩ | ⟨why, hd, e⟩ := runCommand_cases w s
  · exact (runCommand_legal (s := s.setPort p) hd).trans (exec_setPort p (e.symm.trans h))
  · obtain rfl := Host.Outcome.next.inj (e.symm.trans h)
    exact runCommand_illegal (s := s.setPort p) hd

/-- An access is refused by its own form and the parameters, and its effect is on the registers, the buffers and the response. -/
theorem performAccess_setPort {a : HostAccess} {s t : State} (p : List HostEvent)
    (h : performAccess a s = .next t) : performAccess a (s.setPort p) = .next (t.setPort p) := by
  cases hr : resolve s.cfg a with
  | error e =>
    obtain rfl := Host.Outcome.next.inj ((performAccess_of_error hr).symm.trans h)
    exact performAccess_of_error (s := s.setPort p) hr
  | ok u =>
    cases a with
    | read width off =>
      obtain rfl := Host.Outcome.next.inj ((performAccess_read_of_ok hr).symm.trans h)
      rw [performAccess_read_of_ok (s := s.setPort p) hr, readTarget_setPort]
      rfl
    | write width lanes off v =>
      by_cases hc : u = .cmd
      · subst hc
        obtain ⟨_, hu⟩ := runCommand_next v s
        obtain rfl := Host.Outcome.next.inj ((performAccess_write_of_cmd hr hu).symm.trans h)
        exact performAccess_write_of_cmd (s := s.setPort p) hr (runCommand_setPort p hu)
      · obtain rfl := Host.Outcome.next.inj ((performAccess_write_of_store hr hc).symm.trans h)
        rw [performAccess_write_of_store (s := s.setPort p) hr hc, writeTarget_setPort]
        rfl

theorem performEvent_setPort {e : HostEvent} {s t : State} (p : List HostEvent)
    (h : performEvent e s = .next t) : performEvent e (s.setPort p) = .next (t.setPort p) := by
  cases e with
  | access a => exact performAccess_setPort p h
  | reset | resetDuring _ =>
    obtain rfl := Host.Outcome.next.inj h
    rfl

/-- Settles O43: an event is performed on the state without it, and neither reads nor changes what is pending. -/
theorem laterEventsHaveNoInfluence : Obligations.LaterEventsHaveNoInfluence := by
  intro s t e rest h
  have hone : performEvent e (s.setPort []) = .next t :=
    (step_event (s := s.setPort [e]) rfl).symm.trans h
  calc step (s.setPort (e :: rest)) = performEvent e (s.setPort rest) := step_event rfl
    _ = .next (t.setPort rest) := performEvent_setPort (s := s.setPort []) rest hone

/-! ### Which accesses may be repeated (R69) -/

/-- What is pending stays pending: setting it to what it was already changes nothing. -/
theorem performAccess_port {a : HostAccess} {s t : State} (h : performAccess a s = .next t) :
    t.port = s.port := by
  have hsame : performAccess a s = .next (t.setPort s.port) := performAccess_setPort s.port h
  have ht : t = t.setPort s.port := Host.Outcome.next.inj (h.symm.trans hsame)
  calc t.port = (t.setPort s.port).port := congrArg State.port ht
    _ = s.port := State.setPort_port t s.port

theorem writeTarget_respond (s : State) (r : PortResponse) (v : Word) (t : Target) :
    (s.respond r).writeTarget v t = (s.writeTarget v t).respond r := by
  cases t <;> rfl

/-- A write to an offset other than CMD's, done again, finds what it would leave. -/
theorem performAccess_write_again {width : Width} {lanes : BitVec 4} {off : Offset} {v : Word}
    {s t : State} (hoff : off.toNat ≠ 0x008)
    (h : performAccess (.write width lanes off v) s = .next t) :
    performAccess (.write width lanes off v) t = .next t := by
  obtain ⟨⟨e, he⟩, e'⟩ | ⟨u, hne, hu, e'⟩ | ⟨hu, -⟩ := performAccess_write width lanes off v s
  · obtain rfl := Host.Outcome.next.inj (e'.symm.trans h)
    exact performAccess_of_error (s := s.respond .writeError) he
  · obtain rfl := Host.Outcome.next.inj (e'.symm.trans h)
    have hu' : resolve ((s.writeTarget v u).respond .writeOk).cfg (.write width lanes off v) = .ok u := by
      rw [State.respond_cfg, (writeTarget_keeps s v u).1, hu]
    rw [performAccess_write_of_store hu' hne, writeTarget_respond, writeTarget_writeTarget]
    rfl
  · obtain ⟨-, -, ht, -⟩ := resolve_write_ok hu
    exact absurd (toNat_of_targetAt ht) hoff

/-- From the reset value 0xFF of CRC, a zero byte and a second one leave different values. -/
theorem crc8Byte_again_ne : crc8Byte 0xFF 0 ≠ crc8Byte (crc8Byte 0xFF 0) 0 := by
  decide

/-- Settles O42: CRC_BYTE 0 after reset for the first part, no command for the two others. -/
theorem readsAndRepeatedWritesAreIdempotent : Obligations.ReadsAndRepeatedWritesAreIdempotent := by
  refine ⟨?_, ?_, ?_⟩
  · exact ⟨0, State.reset, _, _, rfl, rfl, crc8Byte_again_ne⟩
  · intro s width a rest hp
    obtain ⟨r, hr⟩ := performAccess_read width a (s.setPort rest)
    exact ⟨r, (step_event hp).trans hr⟩
  · intro s width lanes a v rest ha hp
    obtain ⟨t, ht⟩ := step_next s
    have honce : performAccess (.write width lanes a v)
        (s.setPort (.access (.write width lanes a v) :: rest)) = .next t :=
      (step_event hp).symm.trans ht
    have hagain : performAccess (.write width lanes a v) t = .next t :=
      performAccess_write_again ha honce
    have htwice : step t = .next (t.setPort rest) := by
      rw [step_event (performAccess_port honce)]
      exact performAccess_setPort rest hagain
    refine ⟨t, (runSteps_one s).trans ht, ?_⟩
    rw [runSteps_succ ht, runSteps_one, htwice]
    rfl

end Sys2Proof.Machine
end

section
/-! PROOFS of the family 30_encoding: a command and its word determine each other (R90 to R94), what the port does with an ILLEGAL word (R95), and what the assembler's lines emit and `rx.load` leaves (R98, R99). -/

namespace Sys2Proof

/-! ### A word and its three fields (R90) -/

theorem append_fields (w : Word) : opField w ++ aField w ++ bField w = w := by
  apply BitVec.eq_of_toNat_eq
  rw [toNat_op_a_b, ← toNat_eq_fields]

theorem fields_append (op a : Byte) (b : Half) :
    opField (op ++ a ++ b) = op ∧ aField (op ++ a ++ b) = a ∧ bField (op ++ a ++ b) = b := by
  have h := toNat_op_a_b op a b
  have ha := a.isLt
  have hb := b.isLt
  refine ⟨BitVec.eq_of_toNat_eq ?_, BitVec.eq_of_toNat_eq ?_, BitVec.eq_of_toNat_eq ?_⟩
  · rw [toNat_opField]; omega
  · rw [toNat_aField]; omega
  · rw [toNat_bField]; omega

theorem append_eq_iff_fields (op a : Byte) (b : Half) (w : Word) :
    op ++ a ++ b = w ↔ opField w = op ∧ aField w = a ∧ bField w = b := by
  constructor
  · rintro rfl
    exact fields_append op a b
  · rintro ⟨rfl, rfl, rfl⟩
    exact append_fields w

/-! ### The fields of a command (R92) -/

/-- `OP` of the command's word. -/
def Instr.opcode : Instr → Byte
  | .crcInit => 1
  | .crcByte _ => 2
  | .crcWord _ => 3
  | .frameEncode _ _ => 4
  | .checkWord _ _ => 5
  | .frameDecode _ => 6
  | .fieldDecode _ _ => 7

/-- Field `A` of the command's word. -/
def Instr.operandA : Instr → Byte
  | .crcInit => 0
  | .crcByte _ => 0
  | .crcWord _ => 0
  | .frameEncode m _ => m
  | .checkWord c _ => c
  | .frameDecode n => n
  | .fieldDecode f _ => 0#4 ++ f.code

/-- Field `B` of the command's word. -/
def Instr.operandB : Instr → Half
  | .crcInit => 0
  | .crcByte b => 0#8 ++ b
  | .crcWord p => p
  | .frameEncode _ op16 => op16
  | .checkWord _ p => p
  | .frameDecode _ => 0
  | .fieldDecode _ raw => raw

theorem encode_eq_append (i : Instr) : encode i = i.opcode ++ i.operandA ++ i.operandB := by
  cases i with
  | crcByte b => exact BitVec.append_assoc
  | fieldDecode f raw => exact congrArg (· ++ raw) BitVec.append_assoc
  | _ => rfl

/-- A word is a command's word when its three fields are the command's. -/
theorem encode_eq_iff (i : Instr) (w : Word) :
    encode i = w ↔ opField w = i.opcode ∧ aField w = i.operandA ∧ bField w = i.operandB := by
  rw [encode_eq_append, append_eq_iff_fields]

@[simp] theorem opField_encode (i : Instr) : opField (encode i) = i.opcode :=
  ((encode_eq_iff i _).1 rfl).1

@[simp] theorem aField_encode (i : Instr) : aField (encode i) = i.operandA :=
  ((encode_eq_iff i _).1 rfl).2.1

@[simp] theorem bField_encode (i : Instr) : bField (encode i) = i.operandB :=
  ((encode_eq_iff i _).1 rfl).2.2

/-! ### Decoding and encoding undo each other (R94) -/

/-- The word of a well-formed command passes each check of R94, and R94 takes its operands out of the fields they were put in. -/
theorem decode_encode {c : Config} {i : Instr} (h : i.wf c = true) :
    decode c (encode i) = .legal i := by
  unfold decode
  rw [opField_encode, aField_encode, bField_encode]
  cases i with
  | crcByte b =>
    have hhi : (0#8 ++ b).extractLsb' 8 8 = 0#8 := BitVec.extractLsb'_append_eq_left
    have hlo : (0#8 ++ b).extractLsb' 0 8 = b := BitVec.extractLsb'_append_eq_right
    simp [Instr.opcode, Instr.operandA, Instr.operandB, hhi, hlo]
  | frameEncode m op16 =>
    have hm : m.toNat ≤ c.maxParams := of_decide_eq_true h
    simp [Instr.opcode, Instr.operandA, Instr.operandB, hm]
  | fieldDecode f raw =>
    have hhi : (0#4 ++ f.code).extractLsb' 4 4 = 0#4 := BitVec.extractLsb'_append_eq_left
    have hlo : (0#4 ++ f.code).extractLsb' 0 4 = f.code := BitVec.extractLsb'_append_eq_right
    simp [Instr.opcode, Instr.operandA, Instr.operandB, hhi, hlo]
  | _ => rfl

/-- Settles O1: the fields of a command's word are the ones `decode` reads it back from. -/
theorem decodeOfEncodeIsIdentity : Obligations.DecodeOfEncodeIsIdentity :=
  fun _ _ h => decode_encode h

/-- A check that `decode` makes was passed when it answers a command. -/
theorem legal_of_ite {p : Prop} [Decidable p] {i j : Instr} {why : IllegalReason}
    (h : (if p then Decoded.legal j else .illegal why) = .legal i) : p ∧ j = i := by
  split at h
  next hp => exact ⟨hp, Decoded.legal.inj h⟩
  next => cases h

/-- A value whose high bits are zero is its low bits with zeros in front. -/
theorem zero_append_extractLsb' {m n : Nat} {v : BitVec (m + n)} (h : v.extractLsb' n m = 0#m) :
    v = 0#m ++ v.extractLsb' 0 n := by
  rw [← h]
  exact BitVec.extractLsb'_append_extractLsb'.symm

/-- Each check that `decode` makes is what the fields of the command it answers need. -/
theorem encode_of_decode {c : Config} {w : Word} {i : Instr} (h : decode c w = .legal i) :
    encode i = w ∧ i.wf c = true := by
  rw [encode_eq_iff]
  unfold decode at h
  split at h
  case h_1 hop =>
    obtain ⟨⟨ha, hb⟩, rfl⟩ := legal_of_ite h
    exact ⟨⟨BitVec.eq_of_toNat_eq hop, ha, hb⟩, rfl⟩
  case h_2 hop =>
    obtain ⟨⟨ha, hb⟩, rfl⟩ := legal_of_ite h
    have hb' := zero_append_extractLsb' (m := 8) (n := 8) hb
    exact ⟨⟨BitVec.eq_of_toNat_eq hop, ha, hb'⟩, rfl⟩
  case h_3 hop =>
    obtain ⟨ha, rfl⟩ := legal_of_ite h
    exact ⟨⟨BitVec.eq_of_toNat_eq hop, ha, rfl⟩, rfl⟩
  case h_4 hop =>
    obtain ⟨ha, rfl⟩ := legal_of_ite h
    exact ⟨⟨BitVec.eq_of_toNat_eq hop, rfl, rfl⟩, decide_eq_true ha⟩
  case h_5 hop =>
    obtain rfl := Decoded.legal.inj h
    exact ⟨⟨BitVec.eq_of_toNat_eq hop, rfl, rfl⟩, rfl⟩
  case h_6 hop =>
    obtain ⟨hb, rfl⟩ := legal_of_ite h
    exact ⟨⟨BitVec.eq_of_toNat_eq hop, rfl, hb⟩, rfl⟩
  case h_7 hop =>
    obtain ⟨ha, rfl⟩ := legal_of_ite h
    refine ⟨⟨BitVec.eq_of_toNat_eq hop, ?_, rfl⟩, rfl⟩
    rw [Instr.operandA, FieldId.code_ofCode]
    exact zero_append_extractLsb' (m := 4) (n := 4) ha
  case h_8 => cases h

/-- Settles O2, case by case along the opcodes of `decode`. -/
theorem encodeOfDecodeIsIdentity : Obligations.EncodeOfDecodeIsIdentity :=
  fun _ _ _ h => encode_of_decode h

theorem decode_eq_legal_iff (c : Config) (w : Word) (i : Instr) :
    decode c w = .legal i ↔ encode i = w ∧ i.wf c = true := by
  constructor
  · exact encode_of_decode
  · rintro ⟨rfl, h⟩
    exact decode_encode h

/-! ### R92's match/mask table -/

theorem Instr.exists_iff (P : Instr → Prop) :
    (∃ i, P i) ↔ P .crcInit ∨ (∃ b, P (.crcByte b)) ∨ (∃ p, P (.crcWord p)) ∨
      (∃ m op16, P (.frameEncode m op16)) ∨ (∃ k p, P (.checkWord k p)) ∨
      (∃ n, P (.frameDecode n)) ∨ ∃ f raw, P (.fieldDecode f raw) := by
  constructor
  · rintro ⟨i, h⟩
    cases i with
    | crcInit => exact .inl h
    | crcByte b => exact .inr (.inl ⟨b, h⟩)
    | crcWord p => exact .inr (.inr (.inl ⟨p, h⟩))
    | frameEncode m op16 => exact .inr (.inr (.inr (.inl ⟨m, op16, h⟩)))
    | checkWord k p => exact .inr (.inr (.inr (.inr (.inl ⟨k, p, h⟩))))
    | frameDecode n => exact .inr (.inr (.inr (.inr (.inr (.inl ⟨n, h⟩)))))
    | fieldDecode f raw => exact .inr (.inr (.inr (.inr (.inr (.inr ⟨f, raw, h⟩)))))
  · rintro (h | ⟨_, h⟩ | ⟨_, h⟩ | ⟨_, _, h⟩ | ⟨_, _, h⟩ | ⟨_, h⟩ | ⟨_, _, h⟩) <;> exact ⟨_, h⟩

/-- Match and mask work field by field. -/
theorem and_mask_eq_iff (w : Word) (x y p q : Byte) (z r : Half) :
    w &&& (x ++ y ++ z) = p ++ q ++ r ↔
      opField w &&& x = p ∧ aField w &&& y = q ∧ bField w &&& z = r := by
  have h : w &&& (x ++ y ++ z) =
      (opField w &&& x) ++ (aField w &&& y) ++ (bField w &&& z) := by
    conv_lhs => rw [← append_fields w]
    rw [BitVec.and_append, BitVec.and_append]
  obtain ⟨hop, ha, hb⟩ := fields_append (opField w &&& x) (aField w &&& y) (bField w &&& z)
  rw [eq_comm, append_eq_iff_fields, h, hop, ha, hb]

/-- A mask over the high bits selects the values that are a low part with zeros in front. -/
theorem and_highMask_eq_zero_iff {m n : Nat} (v : BitVec (m + n)) :
    v &&& (BitVec.allOnes m ++ 0#n) = 0#(m + n) ↔ ∃ lo : BitVec n, v = 0#m ++ lo := by
  have zero : 0#(m + n) = 0#m ++ 0#n := by simp
  constructor
  · intro h
    rw [← BitVec.extractLsb'_append_extractLsb' (x := v), BitVec.and_append, BitVec.and_zero,
      BitVec.and_allOnes, zero, BitVec.append_left_inj] at h
    exact ⟨_, zero_append_extractLsb' h⟩
  · rintro ⟨lo, rfl⟩
    rw [BitVec.and_append, BitVec.zero_and, BitVec.and_zero, zero]

theorem FieldId.code_surjective : Function.Surjective FieldId.code :=
  fun v => ⟨FieldId.ofCode v, FieldId.code_ofCode v⟩

/-- R92's rows with match and mask written field by field. -/
theorem opcodeRows_eq : opcodeRows =
    [⟨"CRC_INIT", 1#8 ++ 0#8 ++ 0#16, 0xFF#8 ++ 0xFF#8 ++ 0xFFFF#16⟩,
     ⟨"CRC_BYTE", 2#8 ++ 0#8 ++ 0#16, 0xFF#8 ++ 0xFF#8 ++ 0xFF00#16⟩,
     ⟨"CRC_WORD", 3#8 ++ 0#8 ++ 0#16, 0xFF#8 ++ 0xFF#8 ++ 0#16⟩,
     ⟨"FRAME_ENCODE", 4#8 ++ 0#8 ++ 0#16, 0xFF#8 ++ 0#8 ++ 0#16⟩,
     ⟨"CHECK_WORD", 5#8 ++ 0#8 ++ 0#16, 0xFF#8 ++ 0#8 ++ 0#16⟩,
     ⟨"FRAME_DECODE", 6#8 ++ 0#8 ++ 0#16, 0xFF#8 ++ 0#8 ++ 0xFFFF#16⟩,
     ⟨"FIELD_DECODE", 7#8 ++ 0#8 ++ 0#16, 0xFF#8 ++ 0xF0#8 ++ 0#16⟩] :=
  rfl

/-- A row's match and mask select the words of the commands with its mnemonic, R92's further condition on FRAME_ENCODE aside. -/
theorem selects_iff_exists_encode {r : OpcodeRow} (hr : r ∈ opcodeRows) (w : Word) :
    w &&& r.mask = r.pattern ↔ ∃ i, encode i = w ∧ i.mnemonic = r.mnemonic := by
  have byte : ∀ v : Byte, v &&& 0xFF#8 = v := fun _ => BitVec.and_allOnes
  have half : ∀ v : Half, v &&& 0xFFFF#16 = v := fun _ => BitVec.and_allOnes
  have highByte : ∀ v : Half, v &&& 0xFF00#16 = 0#16 ↔ ∃ b : Byte, v = 0#8 ++ b :=
    and_highMask_eq_zero_iff (m := 8) (n := 8)
  have highNibble : ∀ v : Byte, v &&& 0xF0#8 = 0#8 ↔ ∃ f : FieldId, v = 0#4 ++ f.code := fun v =>
    (and_highMask_eq_zero_iff (m := 4) (n := 4) v).trans
      (FieldId.code_surjective.exists (p := fun id => v = 0#4 ++ id))
  simp only [opcodeRows_eq, List.mem_cons, List.not_mem_nil, or_false] at hr
  rw [Instr.exists_iff]
  obtain rfl | rfl | rfl | rfl | rfl | rfl | rfl := hr
  all_goals
    simp only [and_mask_eq_iff, encode_eq_iff, Instr.opcode, Instr.operandA, Instr.operandB,
      Instr.mnemonic, byte, half, highByte, highNibble]
    simp

end Sys2Proof

namespace Sys2Proof.Machine

/-! ### The fields of a command's word as numbers -/

@[simp] theorem opNumber_encode (i : Instr) : opNumber (encode i) = i.opcode.toNat := by
  rw [opNumber, ← toNat_opField, opField_encode]

@[simp] theorem aNumber_encode (i : Instr) : aNumber (encode i) = i.operandA.toNat := by
  rw [aNumber, ← toNat_aField, aField_encode]

@[simp] theorem bNumber_encode (i : Instr) : bNumber (encode i) = i.operandB.toNat := by
  rw [bNumber, ← toNat_bField, bField_encode]

/-- FRAME_ENCODE's is the one constraint of R92 on an operand. -/
theorem wf_iff_aNumber (c : Config) (i : Instr) :
    i.wf c = true ↔ (i.mnemonic = "FRAME_ENCODE" → aNumber (encode i) ≤ c.maxParams) := by
  rw [aNumber_encode]
  cases i <;> simp [Instr.wf, Instr.mnemonic, Instr.operandA]

/-- Settles O3: what the row selects are the words of its commands, and a word decodes to a command when it is its word and the command is well-formed. -/
theorem rowSelectedByMatchAndMask : Obligations.RowSelectedByMatchAndMask := by
  intro c w r hr
  rw [selects_iff_exists_encode hr]
  simp only [decode_eq_legal_iff, wf_iff_aNumber]
  constructor
  · rintro ⟨i, ⟨rfl, hwf⟩, hm⟩
    exact ⟨⟨i, rfl, hm⟩, fun h => hwf (hm.trans h)⟩
  · rintro ⟨⟨i, rfl, hm⟩, hA⟩
    exact ⟨i, ⟨rfl, fun h => hA (hm.symm.trans h)⟩, hm⟩

theorem toNat_operandB_crcByte (b : Byte) : (Instr.crcByte b).operandB.toNat = b.toNat :=
  (toNat_append_add 0#8 b).trans (by simp)

theorem toNat_operandA_fieldDecode (f : FieldId) (raw : Half) :
    (Instr.fieldDecode f raw).operandA.toNat = f.code.toNat :=
  (toNat_append_add 0#4 f.code).trans (by simp)

/-- Settles O5: the word is the command's own, whose fields are known. -/
theorem decodedOperandsAreFields : Obligations.DecodedOperandsAreFields := by
  intro c w i h
  obtain ⟨rfl, -⟩ := encode_of_decode h
  have hop := opNumber_encode i
  have ha := aNumber_encode i
  have hb := bNumber_encode i
  cases i with
  | crcInit => rfl
  | crcByte b => exact ⟨hop, (toNat_operandB_crcByte b).symm.trans hb.symm⟩
  | crcWord p => exact ⟨hop, hb.symm⟩
  | frameEncode m op16 => exact ⟨hop, ha.symm, hb.symm⟩
  | checkWord k p => exact ⟨hop, ha.symm, hb.symm⟩
  | frameDecode n => exact ⟨hop, ha.symm⟩
  | fieldDecode f raw =>
    exact ⟨hop, (toNat_operandA_fieldDecode f raw).symm.trans ha.symm, hb.symm⟩

/-! ### An ILLEGAL word on the port (R95, R202) -/

/-- No cause of R202 applies to the word of a well-formed command. -/
theorem not_illegalCause_encode {c : Config} {i : Instr} (h : i.wf c = true) :
    ¬ IllegalCause c (encode i) := by
  unfold IllegalCause
  rw [opNumber_encode, aNumber_encode, bNumber_encode]
  cases i with
  | crcByte b =>
    have hb := b.isLt
    have hop : (Instr.crcByte b).opcode.toNat = 2 := rfl
    have ha : (Instr.crcByte b).operandA.toNat = 0 := rfl
    rw [toNat_operandB_crcByte]
    omega
  | frameEncode m op16 =>
    have hm : m.toNat ≤ c.maxParams := of_decide_eq_true h
    simp [Instr.opcode, Instr.operandA, hm]
  | fieldDecode f raw =>
    have hf := f.code.isLt
    have hop : (Instr.fieldDecode f raw).opcode.toNat = 7 := rfl
    rw [toNat_operandA_fieldDecode]
    omega
  | _ => simp [Instr.opcode, Instr.operandA, Instr.operandB]

theorem decode_of_illegalCause {c : Config} {w : Word} (h : IllegalCause c w) :
    ∃ why, decode c w = .illegal why := by
  cases hd : decode c w with
  | illegal why => exact ⟨why, rfl⟩
  | legal i =>
    obtain ⟨rfl, hwf⟩ := encode_of_decode hd
    exact absurd h (not_illegalCause_encode hwf)

/-- Settles O36: such a word decodes to no command, so the write raises IllegalCommand and completes. -/
theorem illegalWordOnThePort : Obligations.IllegalWordOnThePort := by
  intro s w rest hp hcause
  obtain ⟨why, hd⟩ := decode_of_illegalCause hcause
  calc step s = completeWrite (runCommand w (s.setPort rest)) :=
        (step_event hp).trans (performAccess_cmdWrite w _)
    _ = completeWrite (.next ((s.setPort rest).raise .illegalCommand)) :=
        congrArg completeWrite (runCommand_illegal (s := s.setPort rest) hd)

/-! ### Written-out words -/

/-- Settles O6, by evaluating `decode` on the seven words. -/
theorem writtenOutWordsDecode : Obligations.WrittenOutWordsDecode := by
  unfold Obligations.WrittenOutWordsDecode
  decide

/-! ### What the assembler emits (R98, R99) -/

theorem asmWrite_eq_some_iff (t : Target) (v : Nat) (a : HostAccess) :
    asmWrite t v = some a ↔
      t.writable = true ∧ v < 2 ^ 32 ∧
        ∃ off, t.offset = some off ∧ memWrite off (BitVec.ofNat 32 v) = a := by
  unfold asmWrite fitField
  cases t.offset with
  | none => simp
  | some off => by_cases hv : v < 2 ^ 32 <;> simp [-Nat.reducePow, hv]

theorem asmRead_eq_some_iff (t : Target) (a : HostAccess) :
    asmRead t = some a ↔ ∃ off, t.offset = some off ∧ memRead off = a := by
  simp [asmRead]

theorem asmCommand_eq_some_iff (c : Config) (i : Instr) (a : HostAccess) :
    asmCommand c i = some a ↔ i.wf c = true ∧ cmdWrite (encode i) = a := by
  simp [asmCommand]

/-- CMD is the one location at offset 0x008 (R61): a slot's offset is at least 0x400. -/
theorem eq_cmd_of_offset {t : Target} (h : t.offset = some 0x008#13) : t = .cmd := by
  have slot : ∀ {base i : Nat}, 0x400 ≤ base → base ≤ 0x1000 →
      (if i < 256 then some (BitVec.ofNat 13 (base + 4 * i)) else none) ≠ some 0x008#13 := by
    intro base i hlo hhi e
    split at e
    next hi =>
      have := congrArg BitVec.toNat (Option.some.inj e)
      rw [BitVec.toNat_ofNat, BitVec.toNat_ofNat] at this
      omega
    next => cases e
  cases t with
  | cmd => rfl
  | rxbuf i => exact absurd h (slot (by decide) (by decide))
  | payload i => exact absurd h (slot (by decide) (by decide))
  | param j => exact absurd h (slot (by decide) (by decide))
  | txbuf k => exact absurd h (slot (by decide) (by decide))
  | _ => exact absurd h (by decide)

/-- What a line other than a bare `wr` may stand for: a mnemonic form's CMD write, a read, or a write elsewhere than to CMD (R98, R99). -/
def MnemonicAccess (c : Config) (a : HostAccess) : Prop :=
  (∃ i, asmCommand c i = some a) ∨ (∃ t, asmRead t = some a) ∨
    ∃ t v, t ≠ .cmd ∧ asmWrite t v = some a

theorem asmFill_mnemonicAccess {c : Config} {slot : Nat → Target} (hs : ∀ k, slot k ≠ .cmd)
    {vs : List Nat} : ∀ {k : Nat} {accesses : List HostAccess}, asmFill slot k vs = some accesses →
      ∀ a ∈ accesses, MnemonicAccess c a := by
  induction vs with
  | nil =>
    intro k accesses h
    obtain rfl := Option.some.inj h
    exact List.forall_mem_nil _
  | cons v vs ih =>
    intro k accesses h
    simp only [asmFill, Option.bind_eq_bind, Option.bind_eq_some_iff] at h
    obtain ⟨a, ha, rest, hrest, hcons⟩ := h
    obtain rfl := Option.some.inj hcons
    exact List.forall_mem_cons.2 ⟨.inr (.inr ⟨_, v, hs k, ha⟩), ih hrest⟩

theorem asmBytes_mnemonicAccess {c : Config} {bs : List Nat} :
    ∀ {accesses : List HostAccess}, asmBytes c bs = some accesses →
      ∀ a ∈ accesses, MnemonicAccess c a := by
  induction bs with
  | nil =>
    intro accesses h
    obtain rfl := Option.some.inj h
    exact List.forall_mem_nil _
  | cons b bs ih =>
    intro accesses h
    simp only [asmBytes, Option.bind_eq_bind, Option.bind_eq_some_iff] at h
    obtain ⟨v, -, a, ha, rest, hrest, hcons⟩ := h
    obtain rfl := Option.some.inj hcons
    exact List.forall_mem_cons.2 ⟨.inl ⟨_, ha⟩, ih hrest⟩

theorem assemble_mnemonicAccess {c : Config} {l : AsmLine} (hl : MnemonicForm l)
    {accesses : List HostAccess} (h : assemble c l = some accesses) :
    ∀ a ∈ accesses, MnemonicAccess c a := by
  have single : ∀ {o : Option HostAccess}, (∀ a, o = some a → MnemonicAccess c a) →
      o.map ([·]) = some accesses → ∀ a ∈ accesses, MnemonicAccess c a := by
    intro o ho e
    obtain ⟨a, ha, rfl⟩ := Option.map_eq_some_iff.1 e
    exact List.forall_mem_singleton.2 (ho a ha)
  cases l with
  | wr t v => exact hl.elim
  | rd t => exact single (fun a ha => .inr (.inl ⟨t, ha⟩)) h
  | nop => exact single (fun a ha => .inr (.inl ⟨.status, ha⟩)) h
  | crcInit => exact single (fun a ha => .inl ⟨.crcInit, ha⟩) h
  | crcByte b | crcWord p | frameDecode n | fieldDecode f p =>
    obtain ⟨_, -, h⟩ := Option.bind_eq_some_iff.1 h
    exact single (fun a ha => .inl ⟨_, ha⟩) h
  | frameEncode m p | checkWord p m =>
    obtain ⟨_, -, h⟩ := Option.bind_eq_some_iff.1 h
    obtain ⟨_, -, h⟩ := Option.bind_eq_some_iff.1 h
    exact single (fun a ha => .inl ⟨_, ha⟩) h
  | rxLoad bytes =>
    obtain ⟨fill, hfill, h⟩ := Option.bind_eq_some_iff.1 h
    obtain ⟨len, hlen, h⟩ := Option.bind_eq_some_iff.1 h
    obtain rfl := Option.some.inj h
    exact List.forall_mem_append.2 ⟨asmFill_mnemonicAccess (slot := .rxbuf) nofun hfill,
      List.forall_mem_singleton.2 (.inr (.inr ⟨.rxlen, _, nofun, hlen⟩))⟩
  | paramLoad words => exact asmFill_mnemonicAccess (slot := .param) nofun h
  | crcBytes bytes =>
    simp only [assemble, Option.bind_eq_bind, Option.bind_eq_some_iff] at h
    obtain ⟨first, hfirst, rest, hrest, h⟩ := h
    obtain rfl := Option.some.inj h
    exact List.forall_mem_cons.2 ⟨.inl ⟨.crcInit, hfirst⟩, asmBytes_mnemonicAccess hrest⟩

theorem MnemonicAccess.legal {c : Config} {w : Word} (h : MnemonicAccess c (cmdWrite w)) :
    ∃ i, decode c w = .legal i := by
  obtain ⟨i, h⟩ | ⟨t, h⟩ | ⟨t, v, hne, h⟩ := h
  · obtain ⟨hwf, hw⟩ := (asmCommand_eq_some_iff c i _).1 h
    injection hw with _ _ _ hw
    exact ⟨i, hw ▸ decode_encode hwf⟩
  · obtain ⟨off, -, hr⟩ := (asmRead_eq_some_iff t _).1 h
    cases hr
  · obtain ⟨-, -, off, hoff, hw⟩ := (asmWrite_eq_some_iff t v _).1 h
    injection hw with _ _ hw
    exact absurd (eq_cmd_of_offset (hw ▸ hoff)) hne

/-- Settles O53: of the accesses a mnemonic form stands for, only the CMD write of a well-formed command goes to CMD. -/
theorem assemblerNeverEmitsIllegalWords : Obligations.AssemblerNeverEmitsIllegalWords := by
  intro c l accesses w hl h hw
  exact (assemble_mnemonicAccess hl h _ hw).legal

/-! ### The accesses of `rx.load`, run (R99) -/

theorem asmWrite_of_targetAt {c : Config} {off : Offset} {t : Target} {v : Nat}
    (ht : targetAt c off = some t) (hw : t.writable = true) (hv : v < 2 ^ 32) :
    asmWrite t v = some (memWrite off (BitVec.ofNat 32 v)) :=
  (asmWrite_eq_some_iff _ _ _).2 ⟨hw, hv, off, offset_of_targetAt ht, rfl⟩

theorem targetAt_rxlen (c : Config) : targetAt c 0x01C#13 = some .rxlen := rfl

/-- The offset of RXBUF's slot `k` (R61). -/
def rxbufOffset (k : Nat) : Offset := BitVec.ofNat 13 (0x400 + 4 * k)

theorem targetAt_rxbuf {c : Config} (hc : c.legal = true) {k : Nat} (hk : k < c.rxCap) :
    targetAt c (rxbufOffset k) = some (.rxbuf k) := by
  have hcap := (Config.caps_lt hc).1
  have hoff : (rxbufOffset k).toNat = 0x400 + 4 * k := by
    rw [rxbufOffset, BitVec.toNat_ofNat]
    omega
  rw [targetAt_eq_some_iff, hoff]
  exact ⟨by omega, hk, by omega, rfl⟩

/-- The writes of `bytes` to RXBUF from slot `k` on (R99). -/
def rxWrites : Nat → List Byte → List HostAccess
  | _, [] => []
  | k, b :: bs => memWrite (rxbufOffset k) (BitVec.ofNat 32 b.toNat) :: rxWrites (k + 1) bs

/-- The write of RXLEN that ends `rx.load` (R99). -/
def rxlenWrite (n : Nat) : HostAccess := memWrite 0x01C#13 (BitVec.ofNat 32 n)

@[simp] theorem length_rxWrites (k : Nat) (bytes : List Byte) :
    (rxWrites k bytes).length = bytes.length := by
  induction bytes generalizing k with
  | nil => rfl
  | cons b bs ih => simp [rxWrites, ih]

theorem asmFill_rxbuf {c : Config} (hc : c.legal = true) {bytes : List Byte} {k : Nat}
    (hk : k + bytes.length ≤ c.rxCap) :
    asmFill .rxbuf k (bytes.map BitVec.toNat) = some (rxWrites k bytes) := by
  induction bytes generalizing k with
  | nil => rfl
  | cons b bs ih =>
    rw [List.length_cons] at hk
    have hb := b.isLt
    have first := asmWrite_of_targetAt (targetAt_rxbuf hc (by omega : k < c.rxCap)) rfl
      (by omega : b.toNat < 2 ^ 32)
    rw [List.map_cons, asmFill, first, ih (by omega)]
    rfl

theorem assemble_rxLoad {c : Config} (hc : c.legal = true) {bytes : List Byte}
    (hlen : bytes.length ≤ c.rxCap) :
    assemble c (.rxLoad (bytes.map BitVec.toNat)) =
      some (rxWrites 0 bytes ++ [rxlenWrite bytes.length]) := by
  have hcap := (Config.caps_lt hc).1
  have last := asmWrite_of_targetAt (targetAt_rxlen c) rfl (by omega : bytes.length < 2 ^ 32)
  rw [assemble, asmFill_rxbuf hc (by omega), List.length_map, last]
  rfl

/-- RXBUF with `bytes` in the slots from `k` on. -/
def overwrite (buf : List Byte) (k : Nat) (bytes : List Byte) : List Byte :=
  buf.take k ++ bytes ++ buf.drop (k + bytes.length)

theorem overwrite_nil (buf : List Byte) (k : Nat) : overwrite buf k [] = buf := by
  simp [overwrite]

theorem overwrite_writeSlot {buf : List Byte} {k : Nat} (hk : k < buf.length) (b : Byte)
    (bs : List Byte) : overwrite (writeSlot buf k b) (k + 1) bs = overwrite buf k (b :: bs) := by
  have htake : (writeSlot buf k b).take (k + 1) = buf.take k ++ [b] := by
    simp [writeSlot, List.take_add_one, hk, List.take_set_of_le]
  have hdrop : (writeSlot buf k b).drop (k + 1 + bs.length) = buf.drop (k + (b :: bs).length) := by
    rw [writeSlot, List.drop_set_of_lt (by omega), List.length_cons, Nat.add_right_comm, Nat.add_assoc]
  rw [overwrite, htake, hdrop, overwrite]
  simp

theorem lowByte_ofNat (n : Nat) : (BitVec.ofNat 32 n).extractLsb' 0 8 = BitVec.ofNat 8 n := by
  apply BitVec.eq_of_toNat_eq
  simp

/-- What `rx.load` leaves: RXBUF and RXLEN written, the last write completed. -/
def State.rxLoaded (s : State) (buf : List Byte) (n : Nat) (rest : List HostEvent) : State :=
  (((s.setRxbuf buf).setRxlen (BitVec.ofNat 8 n)).setPort rest).respond .writeOk

theorem step_rxbufWrite {s : State} (h : s.Inv) {k : Nat} (hk : k < s.cfg.rxCap) (b : Byte)
    (rest : List HostEvent) :
    step (s.setPort (.access (memWrite (rxbufOffset k) (BitVec.ofNat 32 b.toNat)) :: rest)) =
      .next (((s.setRxbuf (writeSlot s.mem.rxbuf k b)).respond .writeOk).setPort rest) := by
  have ht := targetAt_rxbuf h.cfg_legal hk
  have hb : BitVec.ofNat 8 b.toNat = b := by simp
  refine (step_write (s := s.setPort _) rfl ht nofun nofun).trans ?_
  rw [State.writeTarget, lowByte_ofNat, hb]
  rfl

theorem step_rxlenWrite {s : State} {n : Nat} (hn : n ≤ s.cfg.rxCap) (rest : List HostEvent) :
    step (s.setPort (.access (rxlenWrite n) :: rest)) = .next (s.rxLoaded s.mem.rxbuf n rest) := by
  have hv : (BitVec.ofNat 32 n).toNat ≤ s.cfg.rxCap := (Nat.mod_le _ _).trans hn
  refine (step_write (s := s.setPort _) rfl (targetAt_rxlen _) (fun _ => hv) nofun).trans ?_
  rw [State.writeTarget, lowByte_ofNat]
  rfl

/-- By induction on the bytes: the first write leaves a state from which the rest are the same from the next slot on. -/
theorem runSteps_rxWrites {s : State} (h : s.Inv) {bytes : List Byte} {k n : Nat}
    (hk : k + bytes.length ≤ s.cfg.rxCap) (hn : n ≤ s.cfg.rxCap) (rest : List HostEvent) :
    runSteps (bytes.length + 1)
        (s.setPort ((rxWrites k bytes).map .access ++ .access (rxlenWrite n) :: rest)) =
      .next (s.rxLoaded (overwrite s.mem.rxbuf k bytes) n rest) := by
  induction bytes generalizing s k with
  | nil =>
    rw [overwrite_nil]
    exact (runSteps_one _).trans (step_rxlenWrite hn rest)
  | cons b bs ih =>
    rw [List.length_cons] at hk
    obtain ⟨hrx, -⟩ := (Memory.wf_iff _ _).1 h.mem_wf
    refine (runSteps_succ (step_rxbufWrite h (by omega) b _)).trans ?_
    refine (ih ((h.setRxbuf_writeSlot k b).respond _) (k := k + 1) ?_ hn).trans ?_
    · simp only [State.respond_cfg, State.setRxbuf_cfg]
      omega
    · rw [← overwrite_writeSlot (by omega)]
      rfl

/-- Settles O54: the accesses are the writes of the bytes from slot 0 on and of RXLEN. -/
theorem rxLoadFillsRxbuf : Obligations.RxLoadFillsRxbuf := by
  intro s bytes rest h hlen
  have hcap := (Config.caps_lt h.cfg_legal).1
  have hrun := runSteps_rxWrites h (bytes := bytes) (k := 0) (by omega) hlen rest
  refine ⟨_, s.rxLoaded (overwrite s.mem.rxbuf 0 bytes) bytes.length rest,
    assemble_rxLoad h.cfg_legal hlen, by simp, ?_, ?_, ?_, rfl⟩
  · rw [List.length_append, length_rxWrites, List.map_append, List.append_assoc]
    exact hrun
  · exact (BitVec.toNat_ofNat _ 8).trans (Nat.mod_eq_of_lt (by omega))
  · simp [State.rxLoaded, overwrite]

end Sys2Proof.Machine
end

section
/-! PROOFS of the family 40_checksum: the CRC functions are R110's and R111's procedures and R116's table, they are bijective and affine (R118, R119), which errors of a DataWord the check detects (R120), and what the three CRC commands do, alone and one after another (R112 to R117). -/

namespace Sys2Proof.Machine

/-! ### The steps of R110 on numbers -/

/-- One step is the loop body of R110. -/
theorem toNat_crcShift (c : Byte) : (crcShift c).toNat = crcStepNumber c.toNat := by
  have hshift : (c <<< 1).toNat = 2 * c.toNat % 2 ^ 8 := by
    rw [BitVec.toNat_shiftLeft, Nat.shiftLeft_eq, pow_one, Nat.mul_comm]
  have htop : c.getLsbD 7 = true ↔ c.toNat / 2 ^ 7 % 2 = 1 := by
    simp [BitVec.getLsbD, Nat.testBit_eq_decide_div_mod_eq]
  rw [crcShift, crcStepNumber]
  by_cases h : c.getLsbD 7 = true
  · rw [if_pos h, if_pos (htop.1 h), BitVec.toNat_xor, hshift, Nat.xor_mod_two_pow]
    rfl
  · rw [if_neg h, if_neg (mt htop.2 h), hshift]

theorem toNat_crcShifts (n : Nat) (c : Byte) : (crcShifts n c).toNat = crcStepNumber^[n] c.toNat := by
  induction n generalizing c with
  | zero => rfl
  | succ n ih => rw [crcShifts, ih, toNat_crcShift, Function.iterate_succ_apply]

theorem toNat_crc8Byte (c b : Byte) : (crc8Byte c b).toNat = crcByteNumber c.toNat b.toNat := by
  rw [crc8Byte, toNat_crcShifts, crcByteNumber, ← BitVec.toNat_xor, Nat.mod_eq_of_lt (c ^^^ b).isLt]

theorem toNat_checksum (b0 b1 : Byte) :
    (checksum b0 b1).toNat = crcByteNumber (crcByteNumber 0xFF b0.toNat) b1.toNat := by
  rw [checksum_eq, toNat_crc8Byte, toNat_crc8Byte]
  rfl

/-- Settles O7, step by step of the eight. -/
theorem crcFollowsPseudocode : Obligations.CrcFollowsPseudocode := by
  refine ⟨toNat_crc8Byte, fun b0 b1 => ?_, fun p => ?_⟩
  · rw [toNat_checksum, Nat.xor_zero]
  · rw [checksumHalf, toNat_checksum, toNat_hiByte, toNat_loByte]

/-! ### The printed table (R116) -/

theorem crcTable_getD_eq_crc8Byte : ∀ v : Byte, crcTable.getD v.toNat 0 = crc8Byte 0x00 v := by
  decide +kernel

theorem crc8Byte_eq_crcTable_getD (c b : Byte) : crc8Byte c b = crcTable.getD (c ^^^ b).toNat 0 := by
  rw [crcTable_getD_eq_crc8Byte]
  exact crc8Byte_eq c b

/-- Settles O8: the table is checked value by value, and a byte enters the CRC through `c ^ b` alone. -/
theorem tableFormAgrees : Obligations.TableFormAgrees := by
  refine ⟨by decide +kernel, crcTable_getD_eq_crc8Byte, crc8Byte_eq_crcTable_getD, fun b0 b1 => ?_⟩
  rw [checksum_eq, ← crc8Byte_eq_crcTable_getD, ← crc8Byte_eq_crcTable_getD]

/-! ### The steps are injective, so the checksum is bijective in each byte (R117, R118) -/

/-- A step loses nothing: the bit shifted out comes back as bit 0 of 0x31. -/
theorem eq_zero_of_crcShift : ∀ c : Byte, crcShift c = 0#8 → c = 0#8 := by decide

theorem crcShift_injective : Function.Injective crcShift := by
  intro x y h
  rw [← BitVec.xor_eq_zero_iff] at h ⊢
  exact eq_zero_of_crcShift _ ((crcShift_xor x y).trans h)

theorem crcShifts_injective (n : Nat) : Function.Injective (crcShifts n) := by
  induction n with
  | zero => exact fun _ _ h => h
  | succ n ih => exact ih.comp crcShift_injective

@[simp] theorem crcShifts_zero_right (n : Nat) : crcShifts n 0#8 = 0#8 := by
  simpa using crcShifts_xor n 0#8 0#8

theorem crc8Byte_right_injective (c : Byte) : Function.Injective (crc8Byte c) := fun _ _ h =>
  (BitVec.xor_right_inj c).1 (crcShifts_injective 8 h)

theorem crc8Byte_left_injective (b : Byte) : Function.Injective (crc8Byte · b) := fun _ _ h =>
  (BitVec.xor_left_inj b).1 (crcShifts_injective 8 h)

@[simp] theorem crc8Byte_self (c : Byte) : crc8Byte c c = 0#8 := by
  rw [crc8Byte, BitVec.xor_self, crcShifts_zero_right]

theorem crc8Byte_eq_zero_iff (c b : Byte) : crc8Byte c b = 0#8 ↔ b = c := by
  rw [← crc8Byte_self c, (crc8Byte_right_injective c).eq_iff]

theorem checksum_right_bijective (b0 : Byte) : Function.Bijective fun b1 => checksum b0 b1 := by
  simp only [checksum_eq]
  exact Finite.injective_iff_bijective.1 (crc8Byte_right_injective _)

theorem checksum_left_bijective (b1 : Byte) : Function.Bijective fun b0 => checksum b0 b1 := by
  simp only [checksum_eq]
  exact Finite.injective_iff_bijective.1
    ((crc8Byte_left_injective b1).comp (crc8Byte_right_injective 0xFF#8))

/-- The payloads with a given checksum are counted by their first byte, which decides the second. -/
theorem card_filter_checksumHalf (v : Byte) :
    ((Finset.univ : Finset (Fin (2 ^ 16))).filter
      fun p => checksumHalf (BitVec.ofFin p) = v).card = 256 := by
  have hcard : (Finset.univ : Finset Byte).card = 256 := FinEnum.card_eq_fintypeCard.symm
  rw [← hcard]
  refine Finset.card_bij (fun p _ => hiByte (BitVec.ofFin p)) (fun _ _ => Finset.mem_univ _) ?_ ?_
  · intro p hp q hq hhi
    rw [Finset.mem_filter_univ, checksumHalf] at hp hq
    have hlo : loByte (BitVec.ofFin p) = loByte (BitVec.ofFin q) :=
      (checksum_right_bijective _).1 (hp.trans (by rw [← hq, hhi]))
    have hword : BitVec.ofFin p = BitVec.ofFin q := by
      rw [← joinBytes_hi_lo (BitVec.ofFin p), hhi, hlo, joinBytes_hi_lo]
    exact congrArg BitVec.toFin hword
  · intro b0 _
    obtain ⟨b1, hb1⟩ := (checksum_right_bijective b0).2 v
    refine ⟨(joinBytes b0 b1).toFin, ?_, hiByte_joinBytes b0 b1⟩
    rw [Finset.mem_filter_univ, BitVec.ofFin_toFin, checksumHalf, hiByte_joinBytes, loByte_joinBytes]
    exact hb1

/-- Settles O9: an injective map of bytes is a bijection. -/
theorem crcIsBijective : Obligations.CrcIsBijective :=
  ⟨fun c => Finite.injective_iff_bijective.1 (crc8Byte_right_injective c), checksum_right_bijective,
    checksum_left_bijective, card_filter_checksumHalf⟩

/-! ### Flipped payload bits (R119) -/

/-- How flipping the payload bits `e0`, `e1` changes the checksum: the two bytes fed from 0x00. -/
def checksumDelta (e0 e1 : Byte) : Byte := crc8Byte (crc8Byte 0x00#8 e0) e1

theorem checksum_xor (b0 b1 e0 e1 : Byte) :
    checksum (b0 ^^^ e0) (b1 ^^^ e1) = checksum b0 b1 ^^^ checksumDelta e0 e1 := by
  rw [checksum_eq, checksum_eq, checksumDelta, ← crc8Byte_xor, ← crc8Byte_xor, BitVec.xor_zero]

theorem checksumDelta_xor (b0 b1 e0 e1 : Byte) :
    checksumDelta (b0 ^^^ e0) (b1 ^^^ e1) = checksumDelta b0 b1 ^^^ checksumDelta e0 e1 := by
  rw [checksumDelta, checksumDelta, checksumDelta, ← crc8Byte_xor, ← crc8Byte_xor, BitVec.xor_self]

theorem checksum_zero : checksum 0x00#8 0x00#8 = 0x81#8 := by decide +kernel

/-- A checksum is that of the zero payload with the payload's bits flipped. -/
theorem checksumDelta_eq (e0 e1 : Byte) : checksumDelta e0 e1 = checksum e0 e1 ^^^ 0x81#8 := by
  have h := checksum_xor 0x00#8 0x00#8 e0 e1
  rw [BitVec.zero_xor, BitVec.zero_xor, checksum_zero] at h
  rw [h, BitVec.xor_comm, ← BitVec.xor_assoc, BitVec.xor_self, BitVec.zero_xor]

/-- Settles O10: the payload `y` flips the bits of the checksum of `x` that it flips of 0x81. -/
theorem checksumIsAffine : Obligations.ChecksumIsAffine := by
  refine ⟨fun x y => ?_, checksum_zero⟩
  have hhi : hiByte (x ^^^ y) = hiByte x ^^^ hiByte y := BitVec.extractLsb'_xor
  have hlo : loByte (x ^^^ y) = loByte x ^^^ loByte y := BitVec.extractLsb'_xor
  simp only [checksumHalf]
  rw [hhi, hlo, checksum_xor, checksumDelta_eq, BitVec.xor_assoc]

/-! ### XOR-linear maps -/

/-- The XOR of the values of `f` along a list. -/
def xorSum {w : Nat} (f : Nat → BitVec w) (l : List Nat) : BitVec w :=
  l.foldr (fun i acc => f i ^^^ acc) 0

theorem xorSum_cons {w : Nat} (f : Nat → BitVec w) (i : Nat) (l : List Nat) :
    xorSum f (i :: l) = f i ^^^ xorSum f l := rfl

theorem xorSum_congr {w : Nat} {f g : Nat → BitVec w} {l : List Nat} (h : ∀ i ∈ l, f i = g i) :
    xorSum f l = xorSum g l := by
  induction l with
  | nil => rfl
  | cons i l ih => rw [xorSum_cons, xorSum_cons, h i (by simp), ih fun j hj => h j (by simp [hj])]

theorem map_xorSum {v w : Nat} {g : BitVec v → BitVec w} (hg : ∀ x y, g (x ^^^ y) = g x ^^^ g y)
    (f : Nat → BitVec v) (l : List Nat) : g (xorSum f l) = xorSum (fun i => g (f i)) l := by
  induction l with
  | nil => simpa [xorSum] using hg 0 0
  | cons i l ih => rw [xorSum_cons, hg, ih, xorSum_cons]

theorem getLsbD_xorSum_twoPow {w : Nat} {l : List Nat} (hl : l.Nodup) (j : Nat) :
    (xorSum (BitVec.twoPow w) l).getLsbD j = decide (j < w ∧ j ∈ l) := by
  induction l with
  | nil => simp [xorSum]
  | cons i l ih =>
    obtain ⟨hi, hl⟩ := List.nodup_cons.1 hl
    rw [xorSum_cons, BitVec.getLsbD_xor, ih hl, BitVec.getLsbD_twoPow]
    by_cases hj : j = i
    · simp [hj, hi]
    · simp [hj, Ne.symm hj]

/-- The positions of the flipped bits. -/
def flips (e : BitVec 24) : List Nat := (List.range 24).filter e.getLsbD

theorem flipCount_eq_length (e : BitVec 24) : flipCount e = (flips e).length := rfl

theorem mem_flips {e : BitVec 24} {i : Nat} : i ∈ flips e ↔ i < 24 ∧ e.getLsbD i = true := by
  simp [flips]

theorem flips_sorted (e : BitVec 24) : (flips e).Pairwise (· < ·) :=
  List.pairwise_lt_range.filter _

/-- A set of flipped bits is the XOR of its single flips. -/
theorem xorSum_twoPow_flips (e : BitVec 24) : xorSum (BitVec.twoPow 24) (flips e) = e := by
  refine BitVec.eq_of_getLsbD_eq fun i hi => ?_
  rw [getLsbD_xorSum_twoPow ((flips_sorted e).imp Nat.ne_of_lt)]
  simp [mem_flips, hi]

/-- A linear map is known from its values at single flips. -/
theorem linear_eq_xorSum {w : Nat} {g : BitVec 24 → BitVec w} (hg : ∀ x y, g (x ^^^ y) = g x ^^^ g y)
    (e : BitVec 24) : g e = xorSum (fun i => g (BitVec.twoPow 24 i)) (flips e) := by
  rw [← map_xorSum hg, xorSum_twoPow_flips]

/-! ### The syndrome of a set of flipped bits (R120) -/

/-- What the check of a valid DataWord sees of the flipped bits `e`. -/
def syndrome (e : BitVec 24) : Byte :=
  e.extractLsb' 0 8 ^^^ checksumDelta (e.extractLsb' 16 8) (e.extractLsb' 8 8)

theorem syndrome_xor (x y : BitVec 24) : syndrome (x ^^^ y) = syndrome x ^^^ syndrome y := by
  simp only [syndrome, BitVec.extractLsb'_xor, checksumDelta_xor]
  ac_rfl

theorem dataWordOk_xor_iff {w : BitVec 24} (h : dataWordOk w = true) (e : BitVec 24) :
    dataWordOk (w ^^^ e) = true ↔ syndrome e = 0#8 := by
  rw [dataWordOk, beq_iff_eq] at h ⊢
  rw [BitVec.extractLsb'_xor, BitVec.extractLsb'_xor, BitVec.extractLsb'_xor, checksum_xor, h,
    BitVec.xor_right_inj, syndrome, BitVec.xor_eq_zero_iff]

/-- The syndrome of a single flip: position `i` stands for the power `x^i` modulo the generator polynomial, and a step of R110 is multiplication by `x`. -/
theorem syndrome_twoPow : ∀ i < 24, syndrome (BitVec.twoPow 24 i) = crcShifts i 1#8 := by
  decide +kernel

theorem syndrome_eq_xorSum (e : BitVec 24) : syndrome e = xorSum (crcShifts · 1#8) (flips e) := by
  rw [linear_eq_xorSum syndrome_xor]
  exact xorSum_congr fun i hi => syndrome_twoPow i (mem_flips.1 hi).1

/-! ### Bursts -/

theorem crcShifts_add (m n : Nat) (c : Byte) : crcShifts (m + n) c = crcShifts m (crcShifts n c) := by
  induction n generalizing c with
  | zero => rfl
  | succ n ih => exact ih (crcShift c)

/-- Within the first 8 positions nothing is reduced. -/
theorem crcShifts_one : ∀ i < 8, crcShifts i 1#8 = BitVec.twoPow 8 i := by decide

/-- A flip at one of the 8 positions from `k` on, seen from there. -/
theorem extractLsb'_twoPow {i k : Nat} (hi : i < 24) (hki : k ≤ i) (hik : i < k + 8) :
    (BitVec.twoPow 24 i).extractLsb' k 8 = BitVec.twoPow 8 (i - k) := by
  refine BitVec.eq_of_getLsbD_eq fun j hj => ?_
  have hd : i - k < 8 := by omega
  simp only [BitVec.getLsbD_extractLsb', BitVec.getLsbD_twoPow, hj, hi, hd, decide_true,
    Bool.true_and]
  exact decide_eq_decide.2 (by omega)

/-- Flips within 8 positions from `k` on are a byte, shifted `k` times. -/
theorem syndrome_of_burst {e : BitVec 24} {k : Nat}
    (h : ∀ i, e.getLsbD i = true → k ≤ i ∧ i < k + 8) :
    syndrome e = crcShifts k (e.extractLsb' k 8) := by
  have hlin : ∀ x y : BitVec 24, crcShifts k ((x ^^^ y).extractLsb' k 8) =
      crcShifts k (x.extractLsb' k 8) ^^^ crcShifts k (y.extractLsb' k 8) := fun x y => by
    rw [BitVec.extractLsb'_xor, crcShifts_xor]
  rw [syndrome_eq_xorSum, linear_eq_xorSum (g := fun x => crcShifts k (x.extractLsb' k 8)) hlin]
  refine xorSum_congr fun i hi => ?_
  obtain ⟨hi24, hbit⟩ := mem_flips.1 hi
  obtain ⟨hki, hik⟩ := h i hbit
  rw [extractLsb'_twoPow hi24 hki hik, ← crcShifts_one _ (by omega), ← crcShifts_add,
    Nat.add_sub_cancel' hki]

theorem syndrome_burst_ne_zero {e : BitVec 24} (he : e ≠ 0#24) (h : inBurst e) : syndrome e ≠ 0#8 := by
  obtain ⟨k, hk⟩ := h
  rw [syndrome_of_burst hk]
  intro h0
  have hbyte : e.extractLsb' k 8 = 0#8 :=
    crcShifts_injective k (h0.trans (crcShifts_zero_right k).symm)
  refine he (BitVec.eq_of_getLsbD_eq fun i hi => ?_)
  rw [BitVec.getLsbD_zero, ← Bool.not_eq_true]
  intro hbit
  obtain ⟨hki, hik⟩ := hk i hbit
  have hzero := congrArg (BitVec.getLsbD · (i - k)) hbyte
  simp [hbit, show i - k < 8 by omega, show k + (i - k) = i by omega] at hzero

/-! ### One to three flips -/

/-- Whether an odd number of bits are set. -/
def parity (c : Byte) : Bool :=
  c.getLsbD 0 ^^ c.getLsbD 1 ^^ c.getLsbD 2 ^^ c.getLsbD 3 ^^ c.getLsbD 4 ^^ c.getLsbD 5 ^^
    c.getLsbD 6 ^^ c.getLsbD 7

theorem parity_xor (x y : Byte) : parity (x ^^^ y) = (parity x ^^ parity y) := by
  have : Std.Commutative Bool.xor := ⟨Bool.xor_comm⟩
  simp only [parity, BitVec.getLsbD_xor]
  ac_rfl

/-- A step keeps the parity: the bit shifted out is replaced by the three of 0x31. -/
theorem parity_crcShift : ∀ c : Byte, parity (crcShift c) = parity c := by decide

theorem parity_crcShifts (n : Nat) (c : Byte) : parity (crcShifts n c) = parity c := by
  induction n generalizing c with
  | zero => rfl
  | succ n ih => rw [crcShifts, ih, parity_crcShift]

theorem parity_xorSum_crcShifts (l : List Nat) :
    parity (xorSum (crcShifts · 1#8) l) = decide (l.length % 2 = 1) := by
  induction l with
  | nil => rfl
  | cons i l ih =>
    have hone : parity 1#8 = true := rfl
    rw [xorSum_cons, parity_xor, parity_crcShifts, ih, hone, List.length_cons]
    rw [Bool.true_xor, ← decide_not]
    exact decide_eq_decide.2 (by omega)

/-- Of the powers of `x` below 24 only `x^0` is 1. -/
theorem crcShifts_one_ne : ∀ d < 24, d ≠ 0 → crcShifts d 1#8 ≠ 1#8 := by decide

theorem crcShifts_one_ne_of_lt {i j : Nat} (h : i < j) (hj : j < 24) :
    crcShifts i 1#8 ≠ crcShifts j 1#8 := by
  intro he
  obtain ⟨d, rfl⟩ : ∃ d, j = i + d := ⟨j - i, by omega⟩
  rw [crcShifts_add] at he
  exact crcShifts_one_ne d (by omega) (by omega) (crcShifts_injective i he).symm

/-- Of at most three flips an odd number leaves a syndrome of odd parity, and two flips leave different powers of `x`. -/
theorem syndrome_ne_zero_of_flipCount {e : BitVec 24} (he : e ≠ 0#24) (h : flipCount e ≤ 3) :
    syndrome e ≠ 0#8 := by
  intro h0
  rw [syndrome_eq_xorSum] at h0
  have heven : ¬ (flips e).length % 2 = 1 := by
    rw [← decide_eq_false_iff_not, ← parity_xorSum_crcShifts, h0]
    rfl
  rw [flipCount_eq_length] at h
  obtain hlen | hlen : (flips e).length = 0 ∨ (flips e).length = 2 := by omega
  · have hnil := List.length_eq_zero_iff.1 hlen
    exact he ((xorSum_twoPow_flips e).symm.trans (congrArg _ hnil))
  · obtain ⟨i, j, hij⟩ := List.length_eq_two.1 hlen
    have hlt : i < j := by simpa [hij] using flips_sorted e
    have hj : j < 24 := (mem_flips.1 (hij ▸ by simp : j ∈ flips e)).1
    rw [hij, xorSum_cons, BitVec.xor_eq_zero_iff] at h0
    exact crcShifts_one_ne_of_lt hlt hj (h0.trans BitVec.xor_zero)

/-- The generator polynomial itself: its flips pass the check of every DataWord. -/
theorem syndrome_generator : syndrome 0x000131#24 = 0#8 := by decide +kernel

/-- Settles O11: the check fails when the syndrome is not zero; for the last part the DataWord of the zero payload meets the generator polynomial. -/
theorem smallErrorsAreDetected : Obligations.SmallErrorsAreDetected := by
  constructor
  · intro w e hw he h
    rw [← Bool.not_eq_true, dataWordOk_xor_iff hw]
    exact h.elim (syndrome_ne_zero_of_flipCount he) (syndrome_burst_ne_zero he)
  · have hw : dataWordOk 0x000081#24 = true := by decide +kernel
    exact ⟨_, _, hw, by decide, (dataWordOk_xor_iff hw 0x000131#24).2 syndrome_generator⟩

/-! ### Streaming bytes (R115, R117) -/

theorem runAll_cons {i : Instr} {is : List Instr} {s t : State} (h : exec i s = .next t) :
    runAll (i :: is) s = runAll is t := by
  rw [runAll, h]

/-- A run of CRC_BYTEs folds `crc8_byte` over its bytes, from what CRC holds. -/
theorem runAll_crcBytes (bs : List Byte) (s : State) :
    ∃ t, runAll (bs.map .crcByte) s = .next t ∧ t.crc = bs.foldl crc8Byte s.crc := by
  induction bs generalizing s with
  | nil => exact ⟨s, rfl, rfl⟩
  | cons b bs ih =>
    obtain ⟨t, ht, hcrc⟩ := ih (s.setCrc (crc8Byte s.crc b)).succeed
    exact ⟨t, (runAll_cons (exec_crcByte b s)).trans ht, hcrc⟩

/-- After CRC_INIT the fold starts at 0xFF, whatever CRC held. -/
theorem runAll_crcInit_crcBytes (bs : List Byte) (s : State) :
    ∃ t, runAll (.crcInit :: bs.map .crcByte) s = .next t ∧ t.crc = bs.foldl crc8Byte 0xFF#8 := by
  obtain ⟨t, ht, hcrc⟩ := runAll_crcBytes bs (s.setCrc 0xFF#8).succeed
  exact ⟨t, (runAll_cons (exec_crcInit s)).trans ht, hcrc⟩

/-- Settles O12: both forms feed the two bytes in wire order from 0xFF. -/
theorem streamingEqualsWordForm : Obligations.StreamingEqualsWordForm := by
  intro s u b0 b1
  obtain ⟨t, ht, hcrc⟩ := runAll_crcInit_crcBytes [b0, b1] s
  refine ⟨t, _, ht, exec_crcWord _ u, hcrc.trans (checksum_eq b0 b1).symm, ?_⟩
  rw [hiByte_joinBytes, loByte_joinBytes]
  rfl

/-- Settles O13: the third byte meets `checksum(b0, b1)` in CRC, and only an equal byte clears it. -/
theorem residueIsZeroExactlyOnMatch : Obligations.ResidueIsZeroExactlyOnMatch := by
  intro s b0 b1 k
  obtain ⟨t, ht, hcrc⟩ := runAll_crcInit_crcBytes [b0, b1, k] s
  have hresidue : t.crc = crc8Byte (checksum b0 b1) k := hcrc.trans (by rw [checksum_eq]; rfl)
  exact ⟨t, ht, hresidue ▸ crc8Byte_eq_zero_iff _ k⟩

/-! ### The commands and their words (R112 to R114) -/

/-- A command without a constraint on its operands is decoded from its word and no other. -/
theorem decode_eq_legal_iff_toNat {c : Config} {i : Instr} (h : i.wf c = true) (w : Word) :
    decode c w = .legal i ↔ w.toNat = (encode i).toNat := by
  rw [decode_eq_legal_iff, BitVec.toNat_inj, eq_comm (a := w), and_iff_left h]

/-- A word with one of R202's causes ends in IllegalCommand (R95). -/
theorem runCommand_of_illegalCause {s : State} {w : Word} (h : IllegalCause s.cfg w) :
    runCommand w s = .next (illegalEnd s) := by
  obtain ⟨why, hd⟩ := decode_of_illegalCause h
  exact runCommand_illegal hd

/-- Settles O14: CRC_INIT has one word, and R202 lists the others of its opcode. -/
theorem crcInitEffect : Obligations.CrcInitEffect := by
  refine ⟨exec_crcInit, fun c w => ?_, fun s w hop hab => ?_⟩
  · rw [decode_eq_legal_iff_toNat rfl, BitVec.toNat_inj]
    rfl
  · exact runCommand_of_illegalCause (.inr (.inr (.inl ⟨hop, hab⟩)))

/-- Settles O15: the words are read off `encode`, and the others of the opcode are R202's. -/
theorem crcByteEffect : Obligations.CrcByteEffect := by
  refine ⟨fun s b => exec_crcByte b s, fun c w b => ?_, fun s w hop hab => ?_, by decide +kernel,
    crc8Byte_self⟩
  · rw [decode_eq_legal_iff_toNat rfl, toNat_encode_crcByte]
  · exact runCommand_of_illegalCause (.inr (.inr (.inr (.inl ⟨hop, hab⟩))))

/-- Settles O16: what CRC_WORD stores does not name the old CRC; the words are read off `encode`, and the others of the opcode are R202's. -/
theorem crcWordEffect : Obligations.CrcWordEffect := by
  refine ⟨fun s p => exec_crcWord p s, fun c w p => ?_, fun s w hop ha => ?_, checksum_zero,
    by decide +kernel, by decide +kernel⟩
  · rw [decode_eq_legal_iff_toNat rfl, toNat_encode_crcWord]
  · exact runCommand_of_illegalCause (.inr (.inr (.inr (.inr (.inl ⟨hop, ha⟩)))))

/-! ### What register updates leave the window reading (R61) -/

theorem readAt_setStatus (s : State) (v : Status) {a : Offset} (ha : a.toNat ≠ 0x00C) :
    (s.setStatus v).readAt a = s.readAt a := by
  refine readAt_congr rfl fun u hu => ?_
  cases u with
  | status => exact absurd (toNat_of_targetAt hu) ha
  | _ => rfl

theorem readAt_setCrc (s : State) (v : Byte) {a : Offset} (ha : a.toNat ≠ 0x010) :
    (s.setCrc v).readAt a = s.readAt a := by
  refine readAt_congr rfl fun u hu => ?_
  cases u with
  | crc => exact absurd (toNat_of_targetAt hu) ha
  | _ => rfl

theorem readAt_setResult (s : State) (num den : Word) {a : Offset} (hn : a.toNat ≠ 0x014)
    (hd : a.toNat ≠ 0x018) : (s.setResult num den).readAt a = s.readAt a := by
  refine readAt_congr rfl fun u hu => ?_
  cases u with
  | resultNum => exact absurd (toNat_of_targetAt hu) hn
  | resultDen => exact absurd (toNat_of_targetAt hu) hd
  | _ => rfl

/-- What the commands that store to no buffer do: an update of CRC, of STATUS alone, or of the result registers (R112 to R114, R140, R163). -/
theorem exec_storesToNoBuffer {i : Instr} {s t : State} (e : exec i s = .next t)
    (hi : WritesCrc i ∨ (∃ k p, i = .checkWord k p) ∨ ∃ f raw, i = .fieldDecode f raw) :
    (WritesCrc i ∧ ∃ v, t = (s.setCrc v).succeed) ∨
    ((∃ k p, i = .checkWord k p) ∧ ∃ v, v.count = s.status.count ∧ t = s.setStatus v) ∨
    ((∃ f raw, i = .fieldDecode f raw) ∧ ∃ num den, t = (s.setResult num den).succeed) := by
  obtain hw | ⟨k, p, rfl⟩ | ⟨f, raw, rfl⟩ := hi
  · refine .inl ⟨hw, ?_⟩
    obtain rfl | ⟨b, rfl⟩ | ⟨p, rfl⟩ := hw <;> exact ⟨_, (Host.Outcome.next.inj e).symm⟩
  · refine .inr (.inl ⟨⟨k, p, rfl⟩, ?_⟩)
    by_cases h : k = checksum (hiByte p) (loByte p)
    · subst h
      exact ⟨s.status.succeed, rfl, Host.Outcome.next.inj (e.symm.trans (exec_checkWord_match p s))⟩
    · exact ⟨s.status.raise (.checksumError 0), rfl,
        Host.Outcome.next.inj (e.symm.trans (exec_checkWord_mismatch h s))⟩
  · exact .inr (.inr ⟨⟨f, raw, rfl⟩, _, _, (Host.Outcome.next.inj e).symm⟩)

/-- Settles O27: an update of a register leaves what every other offset reads as. -/
theorem registerCommandsFrame : Obligations.RegisterCommandsFrame := by
  intro i s t e hi
  obtain ⟨hw, v, rfl⟩ | ⟨-, v, hcount, rfl⟩ | ⟨⟨f, raw, rfl⟩, num, den, rfl⟩ :=
    exec_storesToNoBuffer e (by simpa only [WritesCrc, or_assoc] using hi)
  · refine ⟨fun a hst hcrc _ => ?_, rfl, rfl, rfl, rfl, rfl, rfl⟩
    refine (readAt_setStatus _ _ hst).trans (readAt_setCrc s v fun ha => ?_)
    obtain ⟨k, p, f, raw, h⟩ := hcrc ha
    obtain rfl | ⟨b, rfl⟩ | ⟨q, rfl⟩ := hw <;> simp at h
  · exact ⟨fun a hst _ _ => readAt_setStatus s v hst, hcount, rfl, rfl, rfl, rfl, rfl⟩
  · refine ⟨fun a hst _ hres => ?_, rfl, rfl, rfl, rfl, rfl, rfl⟩
    exact (readAt_setStatus _ _ hst).trans (readAt_setResult s num den
      (fun ha => hres (.inl ha) f raw rfl) fun ha => hres (.inr ha) f raw rfl)

end Sys2Proof.Machine
end

section
/-! PROOFS of the family 41_command_encoder: the frame FRAME_ENCODE builds (R130, R131), what it leaves alone, and that FRAME_DECODE recovers the parameters from it (R132). -/

namespace Sys2Proof.Machine

/-! ### The frame as a list (R130) -/

theorem wireFrame_append_singleton (op16 : Half) (ps : List Half) (p : Half) :
    wireFrame op16 (ps ++ [p]) =
      wireFrame op16 ps ++ [hiByte p] ++ [loByte p] ++ [checksum (hiByte p) (loByte p)] := by
  simp [wireFrame]

@[simp] theorem length_wireFrame (op16 : Half) (ps : List Half) :
    (wireFrame op16 ps).length = 2 + 3 * ps.length := by
  simp [wireFrame]
  omega

/-- Writing the slot right behind the bytes already written appends a byte to them. -/
theorem writeSlot_append_drop {written tx : List Byte} {k : Nat} (hw : written.length = k)
    (hk : k < tx.length) (b : Byte) :
    writeSlot (written ++ tx.drop k) k b = written ++ [b] ++ tx.drop (k + 1) := by
  subst hw
  rw [writeSlot, List.drop_eq_getElem_cons hk, List.set_append_right _ _ le_rfl, Nat.sub_self,
    List.set_cons_zero, List.append_cons]

/-- The loop of R131 writes the frame of R130, in ascending order of the slots, over the first bytes of TXBUF. -/
theorem encodeFrame_eq_wireFrame_append (param : List Half) (m : Nat) (op16 : Half) (tx : List Byte)
    (hm : m ≤ param.length) (htx : 2 + 3 * m ≤ tx.length) :
    encodeFrame param m op16 tx = wireFrame op16 (param.take m) ++ tx.drop (2 + 3 * m) := by
  induction m with
  | zero =>
    have hfirst : writeSlot tx 0 (hiByte op16) = [hiByte op16] ++ tx.drop 1 :=
      writeSlot_append_drop List.length_nil (by omega) _
    change writeSlot (writeSlot tx 0 _) 1 _ = _
    rw [hfirst, writeSlot_append_drop List.length_singleton (by omega)]
    rfl
  | succ m ih =>
    have hlen : (param.take m).length = m := List.length_take_of_le (by omega)
    have htake : param.take (m + 1) = param.take m ++ [readSlot param m] := by
      rw [readSlot_eq_getElem param m hm, List.take_append_getElem]
    change writeSlot (writeSlot (writeSlot (encodeFrame param m op16 tx) (2 + 3 * m) _) (3 + 3 * m) _)
      (4 + 3 * m) _ = _
    rw [ih (by omega) (by omega), htake, wireFrame_append_singleton,
      writeSlot_append_drop (by simp [hlen]) (by omega), show 3 + 3 * m = 2 + 3 * m + 1 by omega,
      writeSlot_append_drop (by simp [hlen]) (by omega), show 4 + 3 * m = 2 + 3 * m + 1 + 1 by omega,
      writeSlot_append_drop (by simp [hlen]) (by omega)]
    rfl

/-! ### FRAME_ENCODE's effect (R131) -/

/-- The length of a frame that TXBUF has room for fits TXLEN (R29). -/
theorem State.Inv.toNat_frameLength {s : State} (h : s.Inv) {m : Nat} (hm : m ≤ s.cfg.maxParams) :
    (BitVec.ofNat 8 (2 + 3 * m)).toNat = 2 + 3 * m := by
  obtain ⟨-, -, hcap, -⟩ := Config.caps_lt h.cfg_legal
  exact Nat.mod_eq_of_lt (by omega)

/-- Settles O17: the loop's TXBUF is the frame of R130 in front of the slots it does not reach. -/
theorem frameEncodeBuildsFrame : Obligations.FrameEncodeBuildsFrame := by
  intro s m op16 h hm
  obtain ⟨-, -, hparam, -⟩ := (Memory.wf_iff _ _).1 h.mem_wf
  refine ⟨_, h.toNat_frameLength hm, ?_⟩
  rw [exec_frameEncode hm,
    encodeFrame_eq_wireFrame_append _ _ _ _ (by omega) (h.frame_fits hm)]
  rfl

/-- Settles O18: such a count is one of R202's causes. -/
theorem frameEncodeCountAboveLimit : Obligations.FrameEncodeCountAboveLimit := by
  intro s w hop hcount
  have hcause : IllegalCause s.cfg w := .inr (.inr (.inr (.inr (.inr (.inl ⟨hop, hcount⟩)))))
  exact runCommand_of_illegalCause hcause

/-! ### What FRAME_ENCODE leaves the window reading -/

theorem readAt_setTxlen (s : State) (v : Byte) {a : Offset} (ha : a.toNat ≠ 0x020) :
    (s.setTxlen v).readAt a = s.readAt a := by
  refine readAt_congr rfl fun u hu => ?_
  cases u with
  | txlen => exact absurd (toNat_of_targetAt hu) ha
  | _ => rfl

/-- A new TXBUF that differs from the old one only below slot `n` shows only at the offsets of these slots. -/
theorem readAt_setTxbuf {s : State} {tx : List Byte} {n : Nat}
    (htx : ∀ k, n ≤ k → readSlot tx k = readSlot s.mem.txbuf k) {a : Offset}
    (ha : ∀ k, k < n → a.toNat ≠ 0x1000 + 4 * k) : (s.setTxbuf tx).readAt a = s.readAt a := by
  refine readAt_congr rfl fun u hu => ?_
  cases u with
  | txbuf k =>
    obtain ⟨-, -, hk⟩ := toNat_of_targetAt hu
    exact congrArg (BitVec.setWidth 32) (htx k (not_lt.1 fun hlt => ha k hlt hk))
  | _ => rfl

/-- Settles O28: a frame is built by three updates, each seen at its own offsets only; a failure is seen in STATUS only. -/
theorem frameEncodeFrame : Obligations.FrameEncodeFrame := by
  intro m op16 s t e
  by_cases hm : m.toNat ≤ s.cfg.maxParams
  · obtain rfl := Host.Outcome.next.inj ((exec_frameEncode hm op16).symm.trans e)
    refine ⟨fun a hst hlen hslot => ?_, rfl, rfl, rfl, rfl, rfl⟩
    have hkept := readSlot_encodeFrame_ge s.mem.param m.toNat op16 s.mem.txbuf
    exact (readAt_setStatus _ _ hst).trans
      ((readAt_setTxlen _ _ hlen).trans (readAt_setTxbuf hkept hslot))
  · obtain rfl := Host.Outcome.next.inj ((exec_frameEncode_above hm op16).symm.trans e)
    exact ⟨fun a hst _ _ => readAt_setStatus s _ hst, rfl, rfl, rfl, rfl, rfl⟩

/-! ### Decoding what was encoded (R132) -/

/-- RXBUF holds, from slot 0 on, the triplets of the first `m` words of `param`. -/
def HoldsTriplets (rx : List Byte) (param : List Half) (m : Nat) : Prop :=
  ∀ j, j < m →
    readSlot rx (3 * j) = hiByte (readSlot param j) ∧
    readSlot rx (3 * j + 1) = loByte (readSlot param j) ∧
    readSlot rx (3 * j + 2) = checksum (hiByte (readSlot param j)) (loByte (readSlot param j))

/-- The frame without its CommandWord, copied to slot 0, is the parameters' triplets. -/
theorem holdsTriplets_of_encodeFrame {rx tx : List Byte} {param : List Half} {m : Nat}
    {op16 : Half} (htx : 2 + 3 * m ≤ tx.length)
    (hcopy : ∀ k, k < 3 * m → readSlot rx k = readSlot (encodeFrame param m op16 tx) (2 + k)) :
    HoldsTriplets rx param m := by
  intro j hj
  obtain ⟨h0, h1, h2⟩ := readSlot_encodeFrame_triplet param m op16 tx htx j hj
  refine ⟨(hcopy _ (by omega)).trans h0, (hcopy _ (by omega)).trans ?_,
    (hcopy _ (by omega)).trans ?_⟩
  · rw [show 2 + (3 * j + 1) = 3 + 3 * j by omega, h1]
  · rw [show 2 + (3 * j + 2) = 4 + 3 * j by omega, h2]

section
variable {rx : List Byte} {param : List Half} {m : Nat} (h : HoldsTriplets rx param m)
include h

theorem HoldsTriplets.groupOk {j : Nat} (hj : j < m) : groupOk rx j = true := by
  obtain ⟨h0, h1, h2⟩ := h j hj
  rw [groupOk_iff, h0, h1, h2]

theorem HoldsTriplets.firstBadGroup : firstBadGroup rx m 0 = none :=
  (firstBadGroup_eq_none_iff rx m 0).2 fun _ _ hj => h.groupOk (by omega)

theorem HoldsTriplets.groupPayload {j : Nat} (hj : j < m) :
    groupPayload rx j = readSlot param j := by
  obtain ⟨h0, h1, -⟩ := h j hj
  rw [Machine.groupPayload, h0, h1, joinBytes_hi_lo]

end

/-- Settles O34: every group holds its word's own checksum, so all are published, and the two bytes of a word join to it. -/
theorem encodedFrameDecodesBack : Obligations.EncodedFrameDecodesBack := by
  intro s t u m op16 hs _ hm _ e hu _ hlen hcopy
  obtain rfl := Host.Outcome.next.inj ((exec_frameEncode hm op16).symm.trans e)
  have htriplets : HoldsTriplets u.mem.rxbuf s.mem.param m.toNat :=
    holdsTriplets_of_encodeFrame (hs.frame_fits hm) hcopy
  refine ⟨_, exec_frameDecode_ok hlen htriplets.firstBadGroup, rfl, rfl, rfl, fun j hj => ?_⟩
  exact (readSlot_publish_lt _ _ _ (hu.payload_fits hlen) j hj).trans (htriplets.groupPayload hj)

end Sys2Proof.Machine
end

section
/-! PROOFS of the family 42_response_decoder: CHECK_WORD (R140), the three ways FRAME_DECODE ends (R142 to R145), that no single changed byte passes (R145, R146), and what FRAME_DECODE leaves alone. -/

namespace Sys2Proof.Machine

/-! ### CHECK_WORD (R140) -/

/-- Settles O19: the words are read off `encode`, and the checksum is a function of `p`, so it is the one `c` that passes. -/
theorem checkWordEffect : Obligations.CheckWordEffect := by
  refine ⟨fun s p => exec_checkWord_match p s, fun s k p h => exec_checkWord_mismatch h s,
    fun c w k p => ?_, fun p => existsUnique_eq, fun k => by rw [checksum_zero]⟩
  rw [decode_eq_legal_iff_toNat rfl, toNat_encode_checkWord]

/-! ### How FRAME_DECODE ends, in terms of valid groups (R142 to R145) -/

theorem groupOk_iff_groupValid (s : State) (i : Nat) :
    groupOk s.mem.rxbuf i = true ↔ GroupValid s i :=
  groupOk_iff s.mem.rxbuf i

/-- Settles O20: the length is compared before RXBUF is read. -/
theorem frameDecodeLengthError : Obligations.FrameDecodeLengthError :=
  fun _ _ h => exec_frameDecode_length h

theorem exec_frameDecode_of_firstInvalid {s : State} {n : Byte} {i : Nat}
    (hlen : s.rxlen.toNat = 3 * n.toNat) (hi : i < n.toNat) (hvalid : ∀ j, j < i → GroupValid s j)
    (hbad : ¬ GroupValid s i) :
    exec (.frameDecode n) s =
      .next { s with status := { err := .checksum, errIndex := BitVec.ofNat 8 i, count := 0 } } := by
  rw [← groupOk_iff_groupValid, Bool.not_eq_true] at hbad
  have hfirst : firstBadGroup s.mem.rxbuf n.toNat 0 = some i :=
    (firstBadGroup_eq_some_iff _ _ _ _).2
      ⟨i.zero_le, by omega, hbad, fun j _ hj => (groupOk_iff_groupValid s j).2 (hvalid j hj)⟩
  exact exec_frameDecode_bad hlen hfirst

theorem exec_frameDecode_of_valid {s : State} {n : Byte} (hlen : s.rxlen.toNat = 3 * n.toNat)
    (hvalid : ∀ i, i < n.toNat → GroupValid s i) :
    exec (.frameDecode n) s =
      .next { s with
        status := { err := .none, errIndex := 0, count := n }
        mem := { s.mem with payload := publish s.mem.rxbuf n.toNat s.mem.payload } } := by
  have hnone : firstBadGroup s.mem.rxbuf n.toNat 0 = none :=
    (firstBadGroup_eq_none_iff _ _ _).2
      fun i _ hi => (groupOk_iff_groupValid s i).2 (hvalid i (by omega))
  exact exec_frameDecode_ok hlen hnone

/-- The index of a group below a count that is a byte fits `STATUS.ERR_INDEX` (R25). -/
theorem toNat_ofNat_groupIndex {n : Byte} {i : Nat} (hi : i < n.toNat) :
    (BitVec.ofNat 8 i).toNat = i :=
  Nat.mod_eq_of_lt (hi.trans n.isLt)

/-- Settles O21: the search stops at the first failing group, whose index fits a byte. -/
theorem frameDecodeFirstBadGroup : Obligations.FrameDecodeFirstBadGroup :=
  fun _ _ _ hlen hi hvalid hbad =>
    ⟨_, toNat_ofNat_groupIndex hi, exec_frameDecode_of_firstInvalid hlen hi hvalid hbad⟩

/-- Settles O22: PAYLOAD has room for the frame, so every group's payload is stored. -/
theorem frameDecodePublishes : Obligations.FrameDecodePublishes := by
  intro s n h hlen hvalid
  obtain ⟨-, hpay, -, -⟩ := (Memory.wf_iff _ _).1 h.mem_wf
  refine ⟨_, (length_publish _ _ _).trans hpay, fun i hi => ?_, readSlot_publish_ge _ _ _,
    exec_frameDecode_of_valid hlen hvalid⟩
  rw [readSlot_publish_lt _ _ _ (h.payload_fits hlen) i hi, groupPayload, toNat_joinBytes]

/-- Settles O23: were RXLEN `3n`, it would be a multiple of 3 and, being at most RXCAP, leave `n` at most MAX_WORDS. -/
theorem impossibleLengthsAreLengthErrors : Obligations.ImpossibleLengthsAreLengthErrors := by
  intro s n h himpossible
  have hlen : s.rxlen.toNat ≠ 3 * n.toNat := fun e => by
    have hle := h.frameWords_le e
    omega
  exact ⟨_, exec_frameDecode_length hlen, rfl, rfl, rfl⟩

/-! ### One changed byte (R145, R146) -/

/-- A byte of one group is no byte of another. -/
theorem groupValid_writeSlot_of_ne {s : State} {j k r : Nat} (v : Byte) (hr : r < 3) (hjk : j ≠ k) :
    GroupValid (s.setRxbuf (writeSlot s.mem.rxbuf (3 * k + r) v)) j ↔ GroupValid s j := by
  simp only [GroupValid, State.setRxbuf_mem]
  rw [readSlot_writeSlot_ne _ _ (by omega), readSlot_writeSlot_ne _ _ (by omega),
    readSlot_writeSlot_ne _ _ (by omega)]

/-- The checksum is injective in each payload byte (R118), so a valid group with one other byte is not valid. -/
theorem not_groupValid_writeSlot {s : State} {k r : Nat} {v : Byte} (hvalid : GroupValid s k)
    (hr : r < 3) (hfits : 3 * k + r < s.mem.rxbuf.length)
    (hv : v ≠ readSlot s.mem.rxbuf (3 * k + r)) :
    ¬ GroupValid (s.setRxbuf (writeSlot s.mem.rxbuf (3 * k + r) v)) k := by
  intro hvalid'
  simp only [GroupValid, State.setRxbuf_mem] at hvalid hvalid'
  have hself := readSlot_writeSlot_self s.mem.rxbuf (3 * k + r) v hfits
  have hne : ∀ {j}, j ≠ 3 * k + r →
      readSlot (writeSlot s.mem.rxbuf (3 * k + r) v) j = readSlot s.mem.rxbuf j :=
    readSlot_writeSlot_ne _ v
  obtain rfl | rfl | rfl : r = 0 ∨ r = 1 ∨ r = 2 := by omega
  · simp only [Nat.add_zero] at hv hself hne hvalid'
    rw [hne (by omega), hself, hne (by omega), hvalid] at hvalid'
    exact hv ((checksum_left_bijective _).1 hvalid'.symm)
  · rw [hne (by omega), hself, hne (by omega), hvalid] at hvalid'
    exact hv ((checksum_right_bijective _).1 hvalid'.symm)
  · rw [hself, hne (by omega), hne (by omega), ← hvalid] at hvalid'
    exact hv hvalid'

/-- Settles O24: the changed group is the only one that fails, so it is the first. -/
theorem oneChangedByteIsReported : Obligations.OneChangedByteIsReported := by
  intro s n k r v h hlen hvalid hk hr hv
  obtain ⟨hrx, -, -, -⟩ := (Memory.wf_iff _ _).1 h.mem_wf
  have hle := h.rxlen_le
  have hbefore : ∀ j, j < k → GroupValid (s.setRxbuf (writeSlot s.mem.rxbuf (3 * k + r) v)) j :=
    fun j hj => (groupValid_writeSlot_of_ne v hr hj.ne).2 (hvalid j (hj.trans hk))
  have hbad := not_groupValid_writeSlot (hvalid k hk) hr (by omega) hv
  exact ⟨_, exec_frameDecode_of_firstInvalid hlen hk hbefore hbad, rfl, toNat_ofNat_groupIndex hk,
    rfl, rfl⟩

/-! ### What FRAME_DECODE leaves the window reading -/

/-- A new PAYLOAD that differs from the old one only below slot `n` shows only at the offsets of these slots. -/
theorem readAt_setPayload {s : State} {pay : List Half} {n : Nat}
    (hpay : ∀ k, n ≤ k → readSlot pay k = readSlot s.mem.payload k) {a : Offset}
    (ha : ∀ k, k < n → a.toNat ≠ 0x800 + 4 * k) : (s.setPayload pay).readAt a = s.readAt a := by
  refine readAt_congr rfl fun u hu => ?_
  cases u with
  | payload k =>
    obtain ⟨-, -, hk⟩ := toNat_of_targetAt hu
    exact congrArg (BitVec.setWidth 32) (hpay k (not_lt.1 fun hlt => ha k hlt hk))
  | _ => rfl

/-- FRAME_DECODE records a failure in STATUS and does nothing else, or publishes PAYLOAD and records the success. -/
theorem exec_frameDecode_status_or_publish {n : Byte} {s t : State}
    (e : exec (.frameDecode n) s = .next t) :
    (∃ v, t = s.setStatus v) ∨
    ∃ v, v.err = .none ∧
      t = (s.setPayload (publish s.mem.rxbuf n.toNat s.mem.payload)).setStatus v := by
  by_cases hlen : s.rxlen.toNat = 3 * n.toNat
  · cases hb : firstBadGroup s.mem.rxbuf n.toNat 0 with
    | some i => exact .inl ⟨_, Host.Outcome.next.inj (e.symm.trans (exec_frameDecode_bad hlen hb))⟩
    | none =>
      exact .inr ⟨_, rfl, Host.Outcome.next.inj (e.symm.trans (exec_frameDecode_ok hlen hb))⟩
  · exact .inl ⟨_, Host.Outcome.next.inj (e.symm.trans (exec_frameDecode_length hlen))⟩

/-- Settles O29: STATUS is seen at its own offset only, and a published PAYLOAD at those of its first `n` slots only. -/
theorem frameDecodeFrame : Obligations.FrameDecodeFrame := by
  intro n s t e
  obtain ⟨v, rfl⟩ | ⟨v, hok, rfl⟩ := exec_frameDecode_status_or_publish e
  · exact ⟨fun a hst _ => readAt_setStatus s v hst, rfl, rfl, rfl, rfl⟩
  · refine ⟨fun a hst hslot => ?_, rfl, rfl, rfl, rfl⟩
    have hkept := readSlot_publish_ge s.mem.rxbuf n.toNat s.mem.payload
    exact (readAt_setStatus _ v hst).trans (readAt_setPayload hkept (hslot hok))

end Sys2Proof.Machine
end

section
/-! PROOFS of the family 43_field_decoders: FIELD_DECODE completes (R163), and the fraction it leaves in RESULT_NUM and RESULT_DEN is the source's transform of the payload (R160 to R162, R164). -/

namespace Sys2Proof.Machine

/-! ### The field table against R160's and R161's columns -/

theorem toNat_fieldDen (f : FieldId) : (fieldDen f).toNat = sourceDen f := by
  cases f <;> rfl

/-- Field by field: the table's "always", "never" and `CTRL` bit are R161's list. -/
theorem fieldSigned_iff_signedField (ctrl : BitVec 4) (f : FieldId) :
    fieldSigned ctrl f = true ↔ SignedField ctrl f := by
  cases f <;> simp [fieldSigned, fieldRow, SignedField]

/-! ### The payload as a mathematical integer (R162) -/

theorem fieldValue_of_signed {ctrl : BitVec 4} {f : FieldId} (h : SignedField ctrl f) (raw : Half) :
    fieldValue ctrl f raw = sext16 raw :=
  if_pos ((fieldSigned_iff_signedField ctrl f).2 h)

theorem fieldValue_of_unsigned {ctrl : BitVec 4} {f : FieldId} (h : ¬ SignedField ctrl f)
    (raw : Half) : fieldValue ctrl f raw = raw.toNat :=
  if_neg (mt (fieldSigned_iff_signedField ctrl f).1 h)

theorem sext16_of_le {v : Half} (h : 2 ^ 15 ≤ v.toNat) : sext16 v = v.toNat - 2 ^ 16 := if_pos h

theorem sext16_of_lt {v : Half} (h : v.toNat < 2 ^ 15) : sext16 v = v.toNat := if_neg h.not_ge

/-! ### The fraction (R160, R163, R164) -/

/-- Only `co2_temp` has an offset: its `b_f` is -45 brought to the denominator 65536. -/
theorem fieldNum_div_sourceDen (ctrl : BitVec 4) (f : FieldId) (raw : Half) :
    (fieldNum ctrl f raw : ℚ) / sourceDen f = sourceTransform f (fieldValue ctrl f raw) := by
  cases f with
  | co2Temp => simp only [fieldNum, fieldRow, sourceDen, sourceTransform]; push_cast; ring
  | _ => simp [fieldNum, fieldRow, sourceDen, sourceTransform]

/-- R164: the 32-bit pattern in RESULT_NUM, read as signed, is `num` itself. -/
theorem sint32_toPattern32_fieldNum (ctrl : BitVec 4) (f : FieldId) (raw : Half) :
    sint32 (toPattern32 (fieldNum ctrl f raw)) = fieldNum ctrl f raw := by
  obtain ⟨hlo, hhi⟩ := fieldNum_range ctrl f raw
  exact sint32_toPattern32 _ (by omega) (by omega)

/-! ### FIELD_DECODE -/

/-- The two result registers as numbers: `num` and `d_f` of R163. -/
theorem resultRegisters_of_fieldDecode {f : FieldId} {raw : Half} {s t : State}
    (e : exec (.fieldDecode f raw) s = .next t) :
    sint32 t.resultNum = fieldNum s.ctrl f raw ∧ t.resultDen.toNat = sourceDen f := by
  obtain rfl := Host.Outcome.next.inj ((exec_fieldDecode f raw s).symm.trans e)
  exact ⟨sint32_toPattern32_fieldNum s.ctrl f raw, toNat_fieldDen f⟩

/-- Settles O25: the command has one outcome, and its denominator is the table's `d_f`. -/
theorem fieldDecodeCompletes : Obligations.FieldDecodeCompletes := fun s f raw =>
  ⟨_, _, toNat_fieldDen f, fieldDen_mem_resultDens f, exec_fieldDecode f raw s⟩

/-- Settles O26: `x` is the payload's value `s` of R163; RESULT_NUM holds `num` without overflow, so the fraction is `num / d_f`. -/
theorem fieldDecodeIsExact : Obligations.FieldDecodeIsExact := by
  intro s t f raw e
  obtain ⟨hnum, hden⟩ := resultRegisters_of_fieldDecode e
  rw [hnum, hden]
  exact ⟨fieldValue s.ctrl f raw,
    fun hs hraw => (fieldValue_of_signed hs raw).trans (sext16_of_le hraw),
    fun hs hraw => (fieldValue_of_signed hs raw).trans (sext16_of_lt hraw),
    fun hs => fieldValue_of_unsigned hs raw,
    fieldNum_div_sourceDen s.ctrl f raw, fieldNum_range s.ctrl f raw⟩

end Sys2Proof.Machine
end

section
/-! PROOFS of the family 60_exceptions: the causes of IllegalCommand are R202's, a failed command is precise (R203, R204), every step completes (R209, R240), and the idle block keeps all state (R216, R233). -/

namespace Sys2Proof.Machine

/-! ### The causes of IllegalCommand (R202) -/

/-- A check that `decode` makes was not passed when it answers ILLEGAL. -/
theorem not_of_illegal_ite {p : Prop} [Decidable p] {i : Instr} {why why' : IllegalReason}
    (h : (if p then Decoded.legal i else .illegal why) = .illegal why') : ¬ p := by
  intro hp
  rw [if_pos hp] at h
  cases h

theorem aField_eq_zero_iff (w : Word) : aField w = 0 ↔ aNumber w = 0 := by
  rw [← BitVec.toNat_inj, toNat_aField]
  rfl

theorem bField_eq_zero_iff (w : Word) : bField w = 0 ↔ bNumber w = 0 := by
  rw [← BitVec.toNat_inj, toNat_bField]
  rfl

theorem bField_high_eq_zero_iff (w : Word) :
    (bField w).extractLsb' 8 8 = 0 ↔ bNumber w / 2 ^ 8 = 0 := by
  rw [← BitVec.toNat_inj, toNat_bField_hi]
  rfl

theorem aField_high_eq_zero_iff (w : Word) :
    (aField w).extractLsb' 4 4 = 0 ↔ aNumber w / 2 ^ 4 = 0 := by
  rw [← BitVec.toNat_inj, toNat_aField_hi]
  rfl

/-- Each opcode of `decode` with the check that failed is one of R202's causes. -/
theorem illegalCause_of_decode {c : Config} {w : Word} {why : IllegalReason}
    (h : decode c w = .illegal why) : IllegalCause c w := by
  have hop : (opField w).toNat = opNumber w := toNat_opField w
  have hlt : opNumber w < 2 ^ 8 := hop ▸ (opField w).isLt
  have ha : (aField w).toNat = aNumber w := toNat_aField w
  unfold decode at h
  simp only [hop, ha, aField_eq_zero_iff, bField_eq_zero_iff, aField_high_eq_zero_iff,
    bField_high_eq_zero_iff] at h
  unfold IllegalCause
  split at h
  case h_5 => cases h
  case h_8 h1 h2 h3 h4 h5 h6 h7 =>
    simp only [imp_false] at h1 h2 h3 h4 h5 h6 h7
    omega
  all_goals
    have hcheck := not_of_illegal_ite h
    omega

theorem exists_decode_illegal_iff (c : Config) (w : Word) :
    (∃ why, decode c w = .illegal why) ↔ IllegalCause c w :=
  ⟨fun ⟨_, h⟩ => illegalCause_of_decode h, decode_of_illegalCause⟩

/-- Settles O4: opcode 0x05 is in none of R202's causes, so its words decode to a command. -/
theorem illegalCausesExhaustive : Obligations.IllegalCausesExhaustive := by
  refine fun c w => ⟨exists_decode_illegal_iff c w, fun hop => ?_⟩
  cases hd : decode c w with
  | legal i => exact ⟨i, rfl⟩
  | illegal why =>
    have hcause := illegalCause_of_decode hd
    unfold IllegalCause at hcause
    omega

/-! ### A failed command (R203, R204) -/

/-- `raise` records an index for a ChecksumError only. -/
theorem Failure.index_eq_zero {f : Failure} (h : f.kind ≠ .checksum) : f.index = 0 := by
  cases f with
  | checksumError i => exact absurd rfl h
  | lengthError => rfl
  | illegalCommand => rfl

/-- How a command fails: FRAME_DECODE clears COUNT and raises (R145), any other command only raises. -/
theorem exec_failed {i : Instr} {s t : State} (e : exec i s = .next t) (hf : t.status.err ≠ .none) :
    ((∃ n, i = .frameDecode n) ∧ ∃ f, t = (s.setCount 0).raise f) ∨
    ((∀ n, i ≠ .frameDecode n) ∧ ∃ f, t = s.raise f) := by
  have of_succeed : ∀ {u : State}, exec i s = .next u.succeed → False := fun hs =>
    hf (Host.Outcome.next.inj (e.symm.trans hs) ▸ rfl)
  have of_next : ∀ {u : State}, exec i s = .next u → t = u := fun hu =>
    Host.Outcome.next.inj (e.symm.trans hu)
  cases i with
  | frameEncode m op16 =>
    by_cases hm : m.toNat ≤ s.cfg.maxParams
    · exact (of_succeed (exec_frameEncode hm op16)).elim
    · exact .inr ⟨nofun, _, of_next (exec_frameEncode_above hm op16)⟩
  | checkWord k p =>
    by_cases hk : k = checksum (hiByte p) (loByte p)
    · exact (of_succeed (hk ▸ exec_checkWord_match p s)).elim
    · exact .inr ⟨nofun, _, of_next (exec_checkWord_mismatch hk s)⟩
  | frameDecode n =>
    refine .inl ⟨⟨n, rfl⟩, ?_⟩
    by_cases hlen : s.rxlen.toNat = 3 * n.toNat
    · cases hb : firstBadGroup s.mem.rxbuf n.toNat 0 with
      | some k => exact ⟨_, of_next (exec_frameDecode_bad hlen hb)⟩
      | none => exact (of_succeed (exec_frameDecode_ok hlen hb)).elim
    · exact ⟨_, of_next (exec_frameDecode_length hlen)⟩
  | crcInit => exact (of_succeed (exec_crcInit s)).elim
  | crcByte b => exact (of_succeed (exec_crcByte b s)).elim
  | crcWord p => exact (of_succeed (exec_crcWord p s)).elim
  | fieldDecode f raw => exact (of_succeed (exec_fieldDecode f raw s)).elim

/-- The same for the command of a word, whose decoding may be what fails (R204). -/
theorem runCommand_failed {w : Word} {s t : State} (e : runCommand w s = .next t)
    (hf : t.status.err ≠ .none) :
    ((∃ n, decode s.cfg w = .legal (.frameDecode n)) ∧ ∃ f, t = (s.setCount 0).raise f) ∨
    ((∀ n, decode s.cfg w ≠ .legal (.frameDecode n)) ∧ ∃ f, t = s.raise f) := by
  obtain ⟨i, hd, hrun⟩ | ⟨why, hd, hrun⟩ := runCommand_cases w s
  · simp only [hd, ne_eq, Decoded.legal.injEq]
    exact exec_failed (hrun.symm.trans e) hf
  · exact .inr ⟨by simp [hd], _, Host.Outcome.next.inj (e.symm.trans hrun)⟩

/-- Settles O31: a failed command is a `raise`, after COUNT is cleared exactly if it is FRAME_DECODE. -/
theorem failedCommandIsPrecise : Obligations.FailedCommandIsPrecise := by
  intro w s t e hf
  obtain ⟨⟨n, hn⟩, f, rfl⟩ | ⟨hn, f, rfl⟩ := runCommand_failed e hf
  · exact ⟨rfl, Failure.index_eq_zero, fun _ => rfl, fun h => absurd hn (h n)⟩
  · exact ⟨rfl, Failure.index_eq_zero, fun ⟨n, h⟩ => absurd h (hn n), fun _ => rfl⟩

/-! ### The block goes on (R209, R216, R233, R240) -/

/-- Settles O44: each event of the port, and idling, has one next state (`step_cases`). -/
theorem everyStepCompletes : Obligations.EveryStepCompletes := step_next

/-- Settles O45: without an event `step` idles. -/
theorem idleKeepsState : Obligations.IdleKeepsState := fun _ => step_idle

end Sys2Proof.Machine
end

section
/-! PROOFS of the family 70_reset_and_hazards: a reset leaves the same state whether it abandons a command or not (R230, R232), every command and a CRC_BYTE chain run from the reset state (R234), and the reset state has the invariant (R230, R231). -/

namespace Sys2Proof.Machine

/-! ### What a reset leaves (R230, R232) -/

theorem step_reset {s : State} {rest : List HostEvent} (h : s.port = .reset :: rest) :
    step s = .next (s.setPort rest).resetNow :=
  step_event h

/-- The word whose command was running plays no part in the state a reset leaves. -/
theorem step_resetDuring {s : State} {w : Word} {rest : List HostEvent}
    (h : s.port = .resetDuring w :: rest) : step s = .next (s.setPort rest).resetNow :=
  step_event h

/-- Settles O47: both resets leave `resetNow` of the state with the same events to come, which keeps no response. -/
theorem resetAbandonsCommand : Obligations.ResetAbandonsCommand := by
  rintro s u w rest hp rfl
  exact ⟨(s.setPort rest).resetNow, step_resetDuring hp, step_reset rfl, State.resetNow_resp _⟩

/-! ### Commands from the reset state (R234) -/

/-- Settles O48: CRC resets to the 0xFF that CRC_INIT stores, so both folds start there. -/
theorem byteChainAfterReset : Obligations.ByteChainAfterReset := by
  refine fun c k => ⟨fun i => exec_next i _, fun bs => ?_⟩
  obtain ⟨t, ht, hcrc⟩ := runAll_crcBytes bs (State.atReset c k)
  obtain ⟨v, hv, hcrc'⟩ := runAll_crcInit_crcBytes bs (State.atReset c k)
  rw [State.atReset_crc] at hcrc
  exact ⟨t, v, ht, hv, hcrc.trans hcrc'.symm, hcrc⟩

/-! ### The invariant at reset (R230, R231) -/

/-- Settles O49: `State.reset` is the reset state of the default build, which is legal. -/
theorem resetHasInvariant : Obligations.ResetHasInvariant :=
  ⟨fun _ k hc => State.atReset_inv hc k, State.atReset_inv (by decide) 0⟩

end Sys2Proof.Machine
end
